-- ==== Sys2Proof/Word.lean ====
section
/-! DEFINITION. The words of the core and the two plain data types its stimuli and ports carry
(spec/00_scope.md R5 and R6, spec/30_encoding.md R60 and R64). -/

namespace Sys2Proof

/-- A 32-bit word: a Tick (`TICK_W`), a frequency (`FREQ_W`), a callback context (`CTX_W`), a stimulus argument or
a symbol word (R5). Every quantity of the core is unsigned (R6). -/
abbrev Word := BitVec 32

/-- A duration in timer counts (R5, `TICK_W` = 32). -/
abbrev Tick := BitVec 32

/-- A duty accumulator (R5, `DUTY_W` = 64). -/
abbrev Duty := BitVec 64

/-- A stimulus word `s[39:0]` (R60). -/
abbrev StimulusWord := BitVec 40

/-- `Level`: boolean, `High` (carrier active) or `Low` (R5's glossary, R24). -/
inductive Level where
  | low
  | high
  deriving DecidableEq, Repr, Inhabited

/-- The other level: what a toggle of the output does (R129). -/
def Level.flip : Level → Level
  | .low => .high
  | .high => .low

/-- A Symbol, the tagged value the symbol source answers (R33, R64). -/
inductive Symbol where
  | timed (level : Level) (duration : Tick)
  | wait
  | reset
  deriving DecidableEq, Repr

end Sys2Proof
end

