-- ==== Sys2Proof/Syntax.lean ====
section
/-! DEFINITION. The stimuli of the core, one constructor per row of spec/opcode_table.json (spec/30_encoding.md
R63). A row that shows no argument has a constructor without one: its argument bits are ignored (R62). -/

namespace Sys2Proof

/-- The 13 stimuli: seven commands of the host, six events of the environment or the test bench (R2, R61). -/
inductive Instr where
  | startAsyncRx (ctx : Word)
  | stopAsyncRx
  | startAsyncTx (ctx : Word)
  | stopAsyncTx
  | isAsyncTxComplete
  | setFrequency (hz : Word)
  | isTxAllowed (hz : Word)
  | rxTick (n : Word)
  | rxFall
  | rxRise
  | txUpdate
  | srcPush (y : Word)
  | reset
  deriving DecidableEq, Repr

end Sys2Proof
end

