-- ==== Sys2Proof/Decode.lean ====
section
/-! DEFINITION. The encodings of spec/30_encoding.md: the stimulus word (R60 to R63, R69), the symbol word (R64,
R65), and the encoders of both. Decoding is total: a word whose `op` is not in the table is refused by name. -/

namespace Sys2Proof

/-- What a stimulus word says: a stimulus, or an `op` outside the table of R63 (R69). -/
inductive Decoded where
  | stimulus (i : Instr)
  | undefinedOp (op : BitVec 8)
  deriving DecidableEq, Repr

/-- `op = s[39:32]` (R60). -/
def opOf (w : StimulusWord) : BitVec 8 := w.extractLsb' 32 8

/-- `arg = s[31:0]` (R60). -/
def argOf (w : StimulusWord) : Word := w.extractLsb' 0 32

/-- `s[39]`: clear for a command, set for an event (R61). -/
def isEventWord (w : StimulusWord) : Bool := w.getLsbD 39

/-- The opcode map (R63); every other `op` is undefined (R69), and a row without an argument ignores `arg` (R62). -/
def decode (w : StimulusWord) : Decoded :=
  match (opOf w).toNat with
  | 0x01 => .stimulus (.startAsyncRx (argOf w))
  | 0x02 => .stimulus .stopAsyncRx
  | 0x03 => .stimulus (.startAsyncTx (argOf w))
  | 0x04 => .stimulus .stopAsyncTx
  | 0x05 => .stimulus .isAsyncTxComplete
  | 0x06 => .stimulus (.setFrequency (argOf w))
  | 0x07 => .stimulus (.isTxAllowed (argOf w))
  | 0x80 => .stimulus (.rxTick (argOf w))
  | 0x81 => .stimulus .rxFall
  | 0x82 => .stimulus .rxRise
  | 0x83 => .stimulus .txUpdate
  | 0x84 => .stimulus (.srcPush (argOf w))
  | 0xFF => .stimulus .reset
  | _ => .undefinedOp (opOf w)

/-- The `op` of each stimulus (R63). -/
def opcode : Instr → BitVec 8
  | .startAsyncRx _ => 0x01
  | .stopAsyncRx => 0x02
  | .startAsyncTx _ => 0x03
  | .stopAsyncTx => 0x04
  | .isAsyncTxComplete => 0x05
  | .setFrequency _ => 0x06
  | .isTxAllowed _ => 0x07
  | .rxTick _ => 0x80
  | .rxFall => 0x81
  | .rxRise => 0x82
  | .txUpdate => 0x83
  | .srcPush _ => 0x84
  | .reset => 0xFF

/-- `op[7]`: clear for a command of the host, set for an event (R61). -/
def isEvent (i : Instr) : Bool := (opcode i).getLsbD 7

/-- The argument of each stimulus, where its row shows one (R63). -/
def argument? : Instr → Option Word
  | .startAsyncRx ctx => some ctx
  | .stopAsyncRx => none
  | .startAsyncTx ctx => some ctx
  | .stopAsyncTx => none
  | .isAsyncTxComplete => none
  | .setFrequency hz => some hz
  | .isTxAllowed hz => some hz
  | .rxTick n => some n
  | .rxFall => none
  | .rxRise => none
  | .txUpdate => none
  | .srcPush y => some y
  | .reset => none

/-- The word an assembler emits: `op ++ arg`, with `arg = 0` where the row shows none (R60, R62). -/
def encode (i : Instr) : StimulusWord := opcode i ++ (argument? i).getD 0

/-- `tag = y[31:30]` (R64). -/
def tagOf (y : Word) : BitVec 2 := y.extractLsb' 30 2

/-- `zext_32(y[29:0])`: the duration, zero-extended to a Tick, never scaled (R64, R65). -/
def durOf (y : Word) : Tick := (y.extractLsb' 0 30).zeroExtend 32

/-- Decoding a symbol word (R65): no tag is reserved (R64). -/
def decodeSymbol (y : Word) : Symbol :=
  match (tagOf y).toNat with
  | 0 => .reset
  | 1 => .timed .low (durOf y)
  | 2 => .timed .high (durOf y)
  | _ => .wait

/-- `word()`, the inverse of `decodeSymbol` (R64, R123): tag in bits 31:30, `dur` in bits 29:0, `dur = 0` where it is
ignored. A duration of 2^30 or more has no word (R65); only its low 30 bits are kept. -/
def encodeSymbol : Symbol → Word
  | .reset => 0x00000000#32
  | .timed .low d => 0x1#2 ++ d.extractLsb' 0 30
  | .timed .high d => 0x2#2 ++ d.extractLsb' 0 30
  | .wait => 0xC0000000#32

/-- A row of the opcode table as one number: bit 0 is bit 0 of the stimulus word, and every bit from `nbits` up is 0
(spec/opcode_table.json; a stimulus is one word of 40 bits, R60). -/
def tableWord (nbits w : Nat) : Nat := w % 2 ^ nbits

/-- What `decode` reads from a row's word; `none` where it refuses, or where the number is no 40-bit word. -/
def decodeTableWord (nbits w : Nat) : Option Instr :=
  match Nat.ble (2 ^ 40) (tableWord nbits w) with
  | true => none
  | false =>
    match decode (BitVec.ofNat 40 (tableWord nbits w)) with
    | .stimulus i => some i
    | .undefinedOp _ => none

end Sys2Proof
end

