-- ==== Sys2Proof/Config.lean ====
section
/-! DEFINITION. What an implementation fixes (spec/00_scope.md R5) and the free values the spec leaves open.
An OPEN parameter is an opaque constant: nothing in Lean can evaluate it, so a theorem about the model holds for every
value of it (DESIGN CHOICE, log 4). A free value is an opaque function of a plain counter that State holds (log 6). -/

namespace Sys2Proof

/-- The regulation flag's two values, `OnlyRx = 0` and `TxRx = 1` (R14). -/
inductive Regulation where
  | onlyRx
  | txRx
  deriving DecidableEq, Repr, Inhabited

/-- A permitted band `[freq_lo, freq_hi]`, both ends inside (R5, R80). -/
structure Band where
  lo : Word
  hi : Word
  deriving DecidableEq, Repr, Inhabited

/-- The level a pin drives, or `z` where it drives none (R24, R93's U18). -/
inductive PinLevel where
  | low
  | high
  | z
  deriving DecidableEq, Repr, Inhabited

/-- `RADIO_MODE`: the last mode commanded with `radio.switch_to`, or `none` (R30). -/
inductive RadioMode where
  | idle
  | rx
  | tx
  | none
  deriving DecidableEq, Repr, Inhabited

/-- A call the core makes on the radio port (R35). -/
inductive RadioCall where
  | switchToIdle
  | switchToRx
  | switchToTx
  | setFrequency (hz : Word)
  deriving DecidableEq, Repr, Inhabited

/-- Which open value a draw stands for: the state element and the event that leaves it unspecified. -/
inductive FreeSite where
  | lastFreqAtReset
  | rxCntAtReset
  | ccrAAtReset
  | ccrBAtReset
  | deltaAtReset
  | rxCtxAtReset
  | rdAtReset
  | arrAtReset
  | outTAtReset
  | dutyHAtReset
  | dutyLAtReset
  | parityAtReset
  | pendSymAtReset
  | txCtxAtReset
  | logDHAtReset
  | logDLAtReset
  | arrAtStart
  | dutyHAtStop
  | dutyLAtStop
  | parityAtStop
  deriving DecidableEq, Repr

namespace Config

/-- `BUF_CAP`: slots of the sample buffer, fixed (R5). -/
def bufCap : Nat := 256

/-- `BUF_HALF`: slots of one half, fixed (R5). -/
def bufHalf : Nat := 128

/-- `GUARD_TIME` less one: OPEN, any value that keeps `1 <= GUARD_TIME < 2^30` (R5). -/
opaque guardTimeLessOne : Fin 1073741823

/-- `GUARD_TIME`, the guard-time duration in ticks, `1 <= GUARD_TIME < 2^DUR_W` (R5, R208). -/
def guardTime : Tick := BitVec.ofNat 32 (guardTimeLessOne.val + 1)

/-- `TICK_PERIOD`: OPEN; no rule reads it (R5, R8). -/
opaque tickPeriod : Nat

/-- `REGION`: the configured hardware region, OPEN (R5). Regions are numbered; the numbers mean nothing. -/
opaque region : Nat

/-- `REGION_TABLE`: the permitted bands of each region it has as a key, OPEN (R5). -/
opaque regionTable : List (Nat × List Band)

/-- `REGULATION_AT_RESET`: OPEN, one of `OnlyRx`, `TxRx` (R5, R14). -/
opaque regulationAtReset : Regulation

/-- `radio_tune`: the function `hz -> actual_hz` the radio driver computes, an OPEN oracle (R5). -/
opaque radioTune : Word → Word

/-- An unspecified 32-bit register's contents (R38, R22). -/
opaque freeTick : FreeSite → Nat → Tick

/-- An unspecified 64-bit accumulator's contents (R29, R31, R38). -/
opaque freeDuty : FreeSite → Nat → Duty

/-- An unspecified one-bit flag (R26, R29, R38). -/
opaque freeFlag : FreeSite → Nat → Bool

/-- An unspecified level of the toggle flip-flop (R24, R38). -/
opaque freeLevel : FreeSite → Nat → Level

/-- An unspecified read index (R21, R38). -/
opaque freeIndex : FreeSite → Nat → BitVec 8

/-- The contents of a slot of `BUF` that nothing has written since the contents became unspecified (R20, R29, R38):
a function of the counter at which they did and of the slot. -/
opaque freeSlot : Nat → Nat → Tick

/-- What the transmit pin shows, at the `k`-th look, after a fatal entry (R170). -/
opaque freePinLevel : Nat → PinLevel

/-- What the RF enable line shows, at the `k`-th look, after a fatal entry (R170). -/
opaque freeRfEn : Nat → Bool

/-- What mode the radio shows, at the `k`-th look, after a fatal entry (R170). -/
opaque freeRadioMode : Nat → RadioMode

/-- Which further calls the radio has received, at the `k`-th look, since a fatal entry: any number of any calls
(R170). -/
opaque freeRadioCalls : Nat → List RadioCall

/-- The logged duty cycle of the `k`-th log whose two accumulators are both 0 (R31). -/
opaque freeDutyCycle : Nat → Rat

/-- How many ticks of the `k`-th segment of `WAVE` passed before a stop cut it (R36). -/
opaque freeCutTicks : Nat → Nat

end Config
end Sys2Proof
end

