-- ==== Sys2Proof/Machine/State.lean ====
section
/-! DEFINITION. The state of the core as plain data (spec/10_state.md R10 to R38): every element of R10's table, the
test bench's script (spec/30_encoding.md R72), and four fields of the model's own (logs 1, 2, 3 and 6). Enumerations
are inductive types, so the codes R11, R24 and R166 never write cannot be written here (spec/92_eei_decisions.md D4). -/

namespace Sys2Proof.Machine

/-- `DSTATE`, the DriverState (R11, R150). -/
inductive DState where
  | idle
  | asyncRx
  | asyncTx
  | asyncTxLast
  | asyncTxEnd
  deriving DecidableEq, Repr

/-- `FCAUSE`: the cause of the first fatal entry since reset (R13, R166). -/
inductive FatalCause where
  | none
  | startRxBadState
  | stopRxBadState
  | startTxBadState
  | stopTxBadState
  | badOp
  | zeroDuration
  deriving DecidableEq, Repr

/-- `RX_PIN`: the mode of the receive input pin (R19). -/
inductive RxPin where
  | inert
  | capture
  deriving DecidableEq, Repr

/-- `TX_PIN`: the mode of the transmit data pin (R24). -/
inductive TxPin where
  | inert
  | toggle
  | forcedLow
  deriving DecidableEq, Repr

/-- One entry of `EDGE_OUT`: the context and the CaptureEvent (R34, R66). -/
structure EdgeEvent where
  ctx : Word
  level : Bool
  duration : Tick
  deriving DecidableEq, Repr

/-- One entry of `WAVE`: the pin holds `level` for `ticks` ticks (R36). -/
structure Segment where
  level : PinLevel
  ticks : Tick
  deriving DecidableEq, Repr

/-- One call of `pull`: the context the core passed and the symbol word answered (R33, R118; log 3). -/
structure PullCall where
  ctx : Word
  answer : Word
  deriving DecidableEq, Repr

/-- The contents of `BUF` (R20, R40): the slots written since the contents became unspecified, each with its Tick. -/
abbrev Memory := List (Nat × Tick)

/-- The canonical form of a memory: slots strictly rising, every slot below `BUF_CAP`. An unlisted slot holds no
chosen value (log 7), so no entry can repeat what an unlisted slot reads as, and equal memories are equal lists. -/
abbrev Memory.wf (m : Memory) : Prop :=
  m.Pairwise (fun a b => a.1 < b.1) ∧ ∀ c ∈ m, c.1 < Config.bufCap

/-- The CaptureEngine's registers (R16 to R19) and its interrupt enable (R32). -/
structure RxEngine where
  /-- `RX_EN`: the RX timer counts. -/
  en : Bool
  /-- `RX_CNT`: the free-running counter. -/
  cnt : Tick
  /-- `CCR_A`: the capture register of the falling edge. -/
  ccrA : Tick
  /-- `CCR_B`: the capture register of the rising edge. -/
  ccrB : Tick
  /-- `DELTA`: the last mark. -/
  delta : Tick
  /-- `RX_CTX`: the opaque context of the reception. -/
  ctx : Word
  /-- `RX_PIN`. -/
  pin : RxPin
  /-- `IE_CC`. -/
  ieCc : Bool
  deriving DecidableEq, Repr

/-- The AsyncTxContext (R20, R25 to R29). -/
structure TxContext where
  /-- `BUF`. -/
  buf : Memory
  /-- `PARITY`: the parity of the slot about to be written, `true` for odd. -/
  parity : Bool
  /-- `DUTY_H`. -/
  dutyH : Duty
  /-- `DUTY_L`. -/
  dutyL : Duty
  /-- `PEND_V`: a symbol is held. -/
  pendV : Bool
  /-- `PEND_SYM`: the held symbol's word. -/
  pendSym : Word
  /-- `TX_CTX`: the opaque context of the transmission. -/
  ctx : Word
  deriving DecidableEq, Repr

/-- The TX timer, its DMA channel and its output (R21 to R24) with the two interrupt enables (R32). -/
structure TxTimer where
  /-- `RD`: the slot the next `TX_UPDATE` loads. -/
  rd : BitVec 8
  /-- `ARR`: the auto-reload register. -/
  arr : Tick
  /-- `TX_EN`: the timer counter runs. -/
  en : Bool
  /-- `DMA_EN`: the DMA channel is armed. -/
  dmaEn : Bool
  /-- `OUT_T`: the toggle flip-flop. -/
  outT : Level
  /-- `TX_PIN`. -/
  pin : TxPin
  /-- `IE_DMA`. -/
  ieDma : Bool
  /-- `IE_UPD`. -/
  ieUpd : Bool
  deriving DecidableEq, Repr

/-- The duty diagnostic of the last stop: `LOG_V`, `LOG_DH`, `LOG_DL` (R31). -/
structure DutyLog where
  valid : Bool
  dutyH : Duty
  dutyL : Duty
  deriving DecidableEq, Repr

/-- The symbol source of the test bench: its script `SRC_Q` (R72), and the calls made of it since reset (log 3). -/
structure SymbolSource where
  script : List Word
  calls : List PullCall
  deriving DecidableEq, Repr

/-- The machine: R10's elements, the script of R72, and the model's own `stimuli`, `resp`, `src.calls`, `draws`. -/
structure State where
  /-- `DSTATE` (R11). -/
  dstate : DState
  /-- `FATAL` (R13). -/
  fatal : Bool
  /-- `FCAUSE` (R13). -/
  fcause : FatalCause
  /-- `REG` (R14). -/
  reg : Regulation
  /-- `LAST_FREQ_V` (R15). -/
  lastFreqV : Bool
  /-- `LAST_FREQ` (R15). -/
  lastFreq : Word
  /-- The CaptureEngine (R16 to R19, R32). -/
  rx : RxEngine
  /-- The AsyncTxContext (R20, R25 to R28). -/
  txc : TxContext
  /-- `TX_ALLOC` (R29). -/
  txAlloc : Bool
  /-- The TX timer and its DMA channel (R21 to R24, R32). -/
  txt : TxTimer
  /-- `RADIO_MODE` (R30). -/
  radioMode : RadioMode
  /-- `RF_EN` (R30). -/
  rfEn : Bool
  /-- `LOG_V`, `LOG_DH`, `LOG_DL` (R31). -/
  log : DutyLog
  /-- `EDGE_OUT` (R34), oldest first. -/
  edgeOut : List EdgeEvent
  /-- `RADIO_LOG` (R35), oldest first. -/
  radioLog : List RadioCall
  /-- `WAVE` (R36), oldest first. -/
  wave : List Segment
  /-- `SRC_Q` (R72), head first, and the calls made of it. -/
  src : SymbolSource
  /-- `(RESP_V, RESP)` of the last stimulus taken, `none` for `RESP_V = 0` (R68; log 2). -/
  resp : Option Word
  /-- The stimulus words still to come, next first (log 1). -/
  stimuli : List StimulusWord
  /-- How many times the machine has drawn free values (log 6). -/
  draws : Nat
  deriving DecidableEq, Repr

/-- Why a step could stop the machine. There is no reason: the spec's one exception is a state of the machine
(R170), every word and every event has a step, and every slot of `BUF` holds a value, so no meaning answers a fault. -/
inductive Fault : Type
  deriving DecidableEq, Repr

/-- Why a step could refuse a stimulus. -/
inductive Refusal where
  /-- An instruction that has no meaning yet, by its mnemonic: raised by an arm of `exec` only, and by none now that
  all 13 have theirs. Safe: the run stops. -/
  | notModelled (mnemonic : String)
  deriving DecidableEq, Repr

/-- The machine right after reset (R38). A register whose reset value the spec leaves unspecified holds 0 or Low
(DESIGN CHOICE, unsafe, log 5); `BUF` lists nothing (log 7); `REG` holds the parameter of R14. -/
def State.reset : State where
  dstate := .idle
  fatal := false
  fcause := .none
  reg := Config.regulationAtReset
  lastFreqV := false
  lastFreq := 0
  rx := { en := false, cnt := 0, ccrA := 0, ccrB := 0, delta := 0, ctx := 0, pin := .inert, ieCc := false }
  txc := { buf := [], parity := false, dutyH := 0, dutyL := 0, pendV := false, pendSym := 0, ctx := 0 }
  txAlloc := false
  txt := { rd := 0, arr := 0, en := false, dmaEn := false, outT := .low, pin := .inert, ieDma := false, ieUpd := false }
  radioMode := .none
  rfEn := false
  log := { valid := false, dutyH := 0, dutyL := 0 }
  edgeOut := []
  radioLog := []
  wave := []
  src := { script := [], calls := [] }
  resp := none
  stimuli := []
  draws := 0

end Sys2Proof.Machine
end

