-- ==== Sys2Proof/Machine/Ops.lean ====
section
/-! DEFINITION. The named operations over memory, responses, the ports and the fatal state: what the meanings of the
stimuli are written with (spec/20_memory.md, spec/30_encoding.md R68 and R70, spec/60_exceptions.md R170 to R173,
spec/70_reset_and_hazards.md R190). -/

namespace Sys2Proof.Machine

/-! ## The sample buffer -/

/-- The Tick written last to slot `k`, if one was written since the contents became unspecified. -/
def Memory.lookup : Memory → Nat → Option Tick
  | [], _ => none
  | (a, v) :: m, k =>
    match Nat.beq a k with
    | true => some v
    | false => Memory.lookup m k

/-- `MemWrite(k, 1, v)`: one whole slot, no other slot changed (R6, R46, R49). -/
def Memory.write : Memory → Nat → Tick → Memory
  | [], k, v => [(k, v)]
  | (a, w) :: m, k, v =>
    match Nat.blt k a, Nat.beq a k with
    | true, _ => (k, v) :: (a, w) :: m
    | false, true => (k, v) :: m
    | false, false => (a, w) :: Memory.write m k v

/-- `MemRead(k, 1)`: the last value written (R43, R46), or the unspecified contents of a slot that nothing has
written, a free value that is the same at every read (R20, R38; log 7). -/
def Memory.read (epoch : Nat) (m : Memory) (k : Nat) : Tick :=
  match Memory.lookup m k with
  | some v => v
  | none => Config.freeSlot epoch k

/-- Writes 0 into the `n` slots from `k` on: the zero fill of a refill (R124). -/
def Memory.zeroFill : Nat → Nat → Memory → Memory
  | 0, _, m => m
  | n + 1, k, m => Memory.zeroFill n (k + 1) (Memory.write m k 0)

/-- `BUF[k]` of a state. -/
def State.slot (s : State) (k : Nat) : Tick := Memory.read s.draws s.txc.buf k

/-! ## Responses and ports -/

/-- A stimulus that answers nothing: `RESP_V = 0` (R68). -/
def State.silent (s : State) : State := { s with resp := none }

/-- `respond(v)`: `RESP_V = 1`, `RESP = v` (R6, R68). -/
def State.respond (v : Word) (s : State) : State := { s with resp := some v }

/-- `emit_edge(level, duration)`: appends one event, with the context of the reception (R6, R34). -/
def State.emitEdge (level : Bool) (duration : Tick) (s : State) : State :=
  { s with edgeOut := s.edgeOut ++ [{ ctx := s.rx.ctx, level := level, duration := duration }] }

/-- `radio.switch_to(Idle) ; RADIO_MODE <- Idle` (R30, R35). -/
def State.radioToIdle (s : State) : State :=
  { s with radioLog := s.radioLog ++ [.switchToIdle], radioMode := .idle }

/-- `radio.switch_to(Rx) ; RADIO_MODE <- Rx` (R30, R35). -/
def State.radioToRx (s : State) : State :=
  { s with radioLog := s.radioLog ++ [.switchToRx], radioMode := .rx }

/-- `radio.switch_to(Tx) ; RADIO_MODE <- Tx` (R30, R35). -/
def State.radioToTx (s : State) : State :=
  { s with radioLog := s.radioLog ++ [.switchToTx], radioMode := .tx }

/-- The call `radio.set_frequency(hz)` (R35, R82). -/
def State.radioSetFrequency (hz : Word) (s : State) : State :=
  { s with radioLog := s.radioLog ++ [.setFrequency hz] }

/-! ## The fatal entry -/

/-- `raise Fatal(c)`: the one exception of the core. It sets `FATAL` and keeps the first cause; nothing else is saved
and nothing written before it is undone (R170). There is no return from it (R172): only `resetMachine` leaves. -/
def State.raiseFatal (c : FatalCause) (s : State) : State :=
  if s.fatal then s else { s with fatal := true, fcause := c }

/-- While `FATAL = 1` a stimulus is ignored and answers nothing (R171); else its effect `f` runs (R173's first
check). -/
def whenLive (s : State) (f : State → State) : State :=
  if s.fatal then s.silent else f s.silent

/-- An event whose guard is false is ignored: no state changes and no fault is raised (R70). -/
def whenEnabled (guard : Bool) (s : State) (f : State → State) : State :=
  whenLive s fun t => if guard then f t else t

/-- A stimulus word whose `op` is undefined: `Fatal(BadOp)` while `FATAL = 0` (R69, R173). -/
def raiseBadOp (s : State) : State := whenLive s (State.raiseFatal .badOp)

/-! ## Reset, the only way out of the fatal state -/

/-- `RESET` (R190): every element takes R38's value, an element R38 leaves unspecified takes a free value (log 6), the
traces and the script become empty. The stimuli still to come are the environment's and stay (log 1). -/
def resetMachine (s : State) : State :=
  { State.reset with
    lastFreq := Config.freeTick .lastFreqAtReset s.draws
    rx := { State.reset.rx with
      cnt := Config.freeTick .rxCntAtReset s.draws
      ccrA := Config.freeTick .ccrAAtReset s.draws
      ccrB := Config.freeTick .ccrBAtReset s.draws
      delta := Config.freeTick .deltaAtReset s.draws
      ctx := Config.freeTick .rxCtxAtReset s.draws }
    txc := { State.reset.txc with
      parity := Config.freeFlag .parityAtReset s.draws
      dutyH := Config.freeDuty .dutyHAtReset s.draws
      dutyL := Config.freeDuty .dutyLAtReset s.draws
      pendSym := Config.freeTick .pendSymAtReset s.draws
      ctx := Config.freeTick .txCtxAtReset s.draws }
    txt := { State.reset.txt with
      rd := Config.freeIndex .rdAtReset s.draws
      arr := Config.freeTick .arrAtReset s.draws
      outT := Config.freeLevel .outTAtReset s.draws }
    log := { State.reset.log with
      dutyH := Config.freeDuty .logDHAtReset s.draws
      dutyL := Config.freeDuty .logDLAtReset s.draws }
    stimuli := s.stimuli
    draws := s.draws + 1 }

end Sys2Proof.Machine
end

