-- ==== Sys2Proof/Machine/Bench.lean ====
section
/-! DEFINITION. The two events that belong to no engine: `SRC_PUSH`, the test bench's push of a symbol word
(spec/30_encoding.md R72), and `RESET` (spec/70_reset_and_hazards.md R190). -/

namespace Sys2Proof.Machine

/-- `SRC_PUSH y` (R72): appends `y` to the script; ignored while `FATAL = 1` (R171). -/
def srcPush (y : Word) (s : State) : State :=
  whenLive s fun s => { s with src := { s.src with script := s.src.script ++ [y] } }

/-- `SRC_PUSH` (R72). -/
def execSrcPush (y : Word) (s : State) : Host.Outcome State Fault Refusal := .next (srcPush y s)

/-- `RESET` (R190): always enabled, also while `FATAL = 1`. -/
def execReset (s : State) : Host.Outcome State Fault Refusal := .next (resetMachine s)

end Sys2Proof.Machine
end

