-- ==== Sys2Proof/Machine/Flags.lean ====
section
/-! DEFINITION. The flag computations: slot parity and its level (spec/42_transmit_engine.md R116), the permission
predicate and the regulation flag (spec/40_region_policy.md R80, R82), the pin level (spec/10_state.md R24), the
preconditions of the commands (spec/43_driver_state_machine.md R154) and the guards of the events
(spec/30_encoding.md R70). -/

namespace Sys2Proof.Machine

/-- The parity of slot `k`: `true` for odd (R26, R116). -/
def parityOf (k : Nat) : Bool := Nat.beq (k % 2) 1

/-- `lvl(p)`: `lvl(0) = High`, `lvl(1) = Low` (R6, R116). -/
def lvl : Bool → Level
  | false => .high
  | true => .low

/-- The bands of region `r`, if it is a key of the table (R5, R80). -/
def bandsOf (r : Nat) : List (Nat × List Band) → Option (List Band)
  | [] => none
  | (k, bands) :: table =>
    match Nat.beq k r with
    | true => some bands
    | false => bandsOf r table

/-- `lo <= f and f <= hi`, unsigned, both ends inside (R80). -/
def Band.contains (b : Band) (f : Word) : Bool := Nat.ble b.lo.toNat f.toNat && Nat.ble f.toNat b.hi.toNat

/-- `allowed(f)` for a region and a table: an unrecognised region permits every frequency, a recognised one those
inside a band of its list (R80). -/
def allowedIn (r : Nat) (table : List (Nat × List Band)) (f : Word) : Bool :=
  match bandsOf r table with
  | none => true
  | some bands => bands.any fun b => Band.contains b f

/-- `allowed(f)` for the configured region (R80). -/
def allowed (f : Word) : Bool := allowedIn Config.region Config.regionTable f

/-- A boolean response: `1` = true, `0` = false (R68). -/
def boolResponse : Bool → Word
  | true => 1
  | false => 0

/-- The regulation flag for a permission: `TxRx` if allowed, else `OnlyRx` (R82). -/
def regulationFor : Bool → Regulation
  | true => .txRx
  | false => .onlyRx

/-- A level driven on a pin. -/
def PinLevel.driven : Level → PinLevel
  | .low => .low
  | .high => .high

/-- `pin_level()`: `OUT_T` when `TX_PIN = Toggle`, `Low` when `ForcedLow`, no driven level when `Inert` (R24). -/
def TxTimer.pinLevel (t : TxTimer) : PinLevel :=
  match t.pin with
  | .toggle => PinLevel.driven t.outT
  | .forcedLow => .low
  | .inert => .z

/-- `DSTATE in {AsyncTx, AsyncTxLast, AsyncTxEnd}`: the precondition of `STOP_ASYNC_TX` (R154). -/
def DState.transmits : DState → Bool
  | .idle => false
  | .asyncRx => false
  | .asyncTx => true
  | .asyncTxLast => true
  | .asyncTxEnd => true

/-- The enabling condition of a stimulus: a command has none, an event has R70's guard. -/
def guard (i : Instr) (s : State) : Bool :=
  match i with
  | .startAsyncRx _ => true
  | .stopAsyncRx => true
  | .startAsyncTx _ => true
  | .stopAsyncTx => true
  | .isAsyncTxComplete => true
  | .setFrequency _ => true
  | .isTxAllowed _ => true
  | .rxTick _ => s.rx.en
  | .rxFall => s.rx.en
  | .rxRise => s.rx.en
  | .txUpdate => s.txt.en
  | .srcPush _ => true
  | .reset => true

end Sys2Proof.Machine
end

