-- ==== Sys2Proof/Machine/Capture.lean ====
section
/-! DEFINITION. The CaptureEngine: the meanings of `START_ASYNC_RX`, `RX_TICK`, `RX_FALL`, `RX_RISE` and
`STOP_ASYNC_RX` (spec/41_capture_engine.md R92 to R98). An edge event and the capture handler it causes are one step
(R7, R176; log 14). -/

namespace Sys2Proof.Machine

/-- `START_ASYNC_RX ctx` (R92). -/
def startAsyncRx (ctx : Word) (s : State) : State :=
  whenLive s fun s =>
    match s.dstate with
    | .idle =>
      State.radioToRx
        { s with
          dstate := .asyncRx
          rx := { en := true, cnt := 0, ccrA := 0, ccrB := 0, delta := 0, ctx := ctx, pin := .capture, ieCc := true } }
    | _ => s.raiseFatal .startRxBadState

/-- `RX_TICK n` (R94): the counter adds `n` modulo 2^32, silently. -/
def rxTick (n : Word) (s : State) : State :=
  whenEnabled s.rx.en s fun s => { s with rx := { s.rx with cnt := s.rx.cnt + n } }

/-- `RX_FALL` (R95): channel A captures, the handler latches the mark and reports it. -/
def rxFall (s : State) : State :=
  whenEnabled s.rx.en s fun s =>
    State.emitEdge true s.rx.cnt { s with rx := { s.rx with ccrA := s.rx.cnt, delta := s.rx.cnt } }

/-- `RX_RISE` (R96): channel B captures, the counter is reset, the handler reports the space. -/
def rxRise (s : State) : State :=
  whenEnabled s.rx.en s fun s =>
    State.emitEdge false (s.rx.cnt - s.rx.delta) { s with rx := { s.rx with ccrB := s.rx.cnt, cnt := 0 } }

/-- `STOP_ASYNC_RX` (R98): the registers keep their last values. -/
def stopAsyncRx (s : State) : State :=
  whenLive s fun s =>
    match s.dstate with
    | .asyncRx =>
      { s.radioToIdle with
        rx := { s.rx with en := false, ieCc := false, pin := .inert }
        dstate := .idle }
    | _ => s.raiseFatal .stopRxBadState

/-- `START_ASYNC_RX` (R92). -/
def execStartAsyncRx (ctx : Word) (s : State) : Host.Outcome State Fault Refusal := .next (startAsyncRx ctx s)

/-- `RX_TICK` (R94). -/
def execRxTick (n : Word) (s : State) : Host.Outcome State Fault Refusal := .next (rxTick n s)

/-- `RX_FALL` (R95). -/
def execRxFall (s : State) : Host.Outcome State Fault Refusal := .next (rxFall s)

/-- `RX_RISE` (R96). -/
def execRxRise (s : State) : Host.Outcome State Fault Refusal := .next (rxRise s)

/-- `STOP_ASYNC_RX` (R98). -/
def execStopAsyncRx (s : State) : Host.Outcome State Fault Refusal := .next (stopAsyncRx s)

end Sys2Proof.Machine
end

