-- ==== Sys2Proof/Machine/Region.lean ====
section
/-! DEFINITION. RegionPolicy: the meanings of `IS_TX_ALLOWED` and `SET_FREQUENCY` (spec/40_region_policy.md R80 to
R83). Both are legal in every `DSTATE` and never fatal. -/

namespace Sys2Proof.Machine

/-- `IS_TX_ALLOWED hz` (R81): responds `allowed(hz)` and changes nothing else. -/
def isTxAllowed (hz : Word) (s : State) : State :=
  whenLive s fun s => s.respond (boolResponse (allowed hz))

/-- `SET_FREQUENCY hz` (R82): the radio is tuned, `REG` is tested on the requested frequency, `LAST_FREQ` takes the
actual one, which is the response. -/
def setFrequency (hz : Word) (s : State) : State :=
  whenLive s fun s =>
    State.respond (Config.radioTune hz)
      { s.radioSetFrequency hz with
        reg := regulationFor (allowed hz)
        lastFreq := Config.radioTune hz
        lastFreqV := true }

/-- `IS_TX_ALLOWED` (R81). -/
def execIsTxAllowed (hz : Word) (s : State) : Host.Outcome State Fault Refusal := .next (isTxAllowed hz s)

/-- `SET_FREQUENCY` (R82). -/
def execSetFrequency (hz : Word) (s : State) : Host.Outcome State Fault Refusal := .next (setFrequency hz s)

end Sys2Proof.Machine
end

