-- ==== Sys2Proof/Machine/Operands.lean ====
section
/-! DEFINITION. The operands that are not in the stimulus word: the symbols a refill asks for (spec/10_state.md R33,
spec/30_encoding.md R72, spec/42_transmit_engine.md R118), the held symbol (R123), and the slots it fills. The
argument of a stimulus needs no operand form of its own: it is used as it stands (R62). -/

namespace Sys2Proof.Machine

/-- What one refill call reads and writes: the context and the symbol source (R130). -/
structure Fill where
  ctx : TxContext
  src : SymbolSource
  deriving DecidableEq, Repr

/-- The symbol word an empty script answers: `Wait` (R72). -/
def waitWord : Word := 0xC0000000#32

/-- `pull(ctx)`: the script's head, or `Wait` when it is empty (R33, R72; log 3). -/
def SymbolSource.pull (ctx : Word) (q : SymbolSource) : Word × SymbolSource :=
  match q.script with
  | [] => (waitWord, { script := [], calls := q.calls ++ [{ ctx := ctx, answer := waitWord }] })
  | y :: ys => (y, { script := ys, calls := q.calls ++ [{ ctx := ctx, answer := y }] })

/-- `next_symbol()`: the held symbol first, else the source (R118). -/
def Fill.nextSymbol (f : Fill) : Symbol × Fill :=
  match f.ctx.pendV with
  | true => (decodeSymbol f.ctx.pendSym, { f with ctx := { f.ctx with pendV := false } })
  | false =>
    match f.src.pull f.ctx.ctx with
    | (y, q) => (decodeSymbol y, { f with src := q })

/-- `hold(l, d)`: keeps a symbol whose guard slot took the last slot of the request (R123). -/
def Fill.hold (l : Level) (d : Tick) (f : Fill) : Fill :=
  { f with ctx := { f.ctx with pendSym := encodeSymbol (.timed l d), pendV := true } }

/-- `PARITY <- k mod 2` (R117). -/
def Fill.atSlot (k : Nat) (f : Fill) : Fill :=
  { f with ctx := { f.ctx with parity := parityOf k } }

/-- Writes a guard or a duration into slot `k`, adds it to the accumulator of the side its parity stands for, and
flips the parity (R120, R121, R122). -/
def Fill.put (k : Nat) (v : Tick) (f : Fill) : Fill :=
  match f.ctx.parity with
  | false =>
    { f with ctx := { f.ctx with
        buf := Memory.write f.ctx.buf k v
        dutyH := f.ctx.dutyH + v.zeroExtend 64
        parity := true } }
  | true =>
    { f with ctx := { f.ctx with
        buf := Memory.write f.ctx.buf k v
        dutyL := f.ctx.dutyL + v.zeroExtend 64
        parity := false } }

/-- `zero_fill()` of the last `n` slots of a request, from slot `k` on; nothing else of the context changes (R124). -/
def Fill.zeroFill (n k : Nat) (f : Fill) : Fill :=
  { f with ctx := { f.ctx with buf := Memory.zeroFill n k f.ctx.buf } }

end Sys2Proof.Machine
end

