-- ==== Sys2Proof/Machine/Refill.lean ====
section
/-! DEFINITION. The refill algorithm of the TransmitEngine (spec/42_transmit_engine.md R115 to R124), over the three
windows it is ever asked for (spec/20_memory.md R45). The guard time is an argument, so that the spec's vectors can be
checked at their example value; the meanings pass `Config.guardTime`. -/

namespace Sys2Proof.Machine

/-- The requests a refill is given (R45): the pre-fill, and the half just consumed. -/
inductive Window where
  | prefill
  | firstHalf
  | secondHalf
  deriving DecidableEq, Repr

/-- The first slot of a request (R45, R115). -/
def Window.base : Window → Nat
  | .prefill => 0
  | .firstHalf => 0
  | .secondHalf => Config.bufHalf

/-- How many slots a request asks for (R45, R115). -/
def Window.count : Window → Nat
  | .prefill => Config.bufCap
  | .firstHalf => Config.bufHalf
  | .secondHalf => Config.bufHalf

/-- How the loop of R117 ended: `done n f` with `n` slots of the request not written, or `zeroDuration f` at a `Timed`
symbol of duration 0. -/
inductive FillEnd where
  | done (left : Nat) (f : Fill)
  | zeroDuration (f : Fill)
  deriving DecidableEq, Repr

/-- The loop of R117, with `left` slots of the request still to write, the first of them slot `k`. -/
def fillLoop (g : Tick) (left k : Nat) (f : Fill) : FillEnd :=
  match left with
  | 0 => .done 0 f
  | n + 1 =>
    match (f.atSlot k).nextSymbol with
    -- R119: stop, nothing written, nothing counted
    | (.wait, f) => .done (n + 1) f
    -- R120: end Low, with a guard slot if the parity is odd
    | (.reset, f) =>
      if f.ctx.parity then .done n (f.put k g) else .done (n + 1) f
    | (.timed l d, f) =>
      -- R121, R122: raised before the symbol writes anything
      if d = 0 then .zeroDuration f
      -- R122: the duration in this slot
      else if l = lvl f.ctx.parity then fillLoop g n (k + 1) (f.put k d)
      -- R121: a guard slot, then the duration in the next one, or the symbol held (R123)
      else
        match n with
        | 0 => .done 0 ((f.put k g).hold l d)
        | m + 1 => fillLoop g m (k + 2) ((f.put k g).put (k + 1) d)

/-- `refill(base, N)` (R115, R117): the loop, then the zero fill of what it left (R124); a fatal symbol skips the zero
fill and keeps what was written before it (R122). -/
def refill (g : Tick) (w : Window) (f : Fill) : FillEnd :=
  match fillLoop g w.count w.base f with
  | .done left f => .done 0 (f.zeroFill left (w.base + w.count - left))
  | .zeroDuration f => .zeroDuration f

/-- `refill` on a state: the context and the source are updated, and `Fatal(ZeroDuration)` is raised where it ended so
(R122, R166). -/
def State.refill (g : Tick) (w : Window) (s : State) : State :=
  match Machine.refill g w { ctx := s.txc, src := s.src } with
  | .done _ f => { s with txc := f.ctx, src := f.src }
  | .zeroDuration f => State.raiseFatal .zeroDuration { s with txc := f.ctx, src := f.src }

end Sys2Proof.Machine
end

