-- ==== Sys2Proof/Machine/Transmit.lean ====
section
/-! DEFINITION. The TransmitEngine: the meanings of `START_ASYNC_TX`, `TX_UPDATE`, `IS_ASYNC_TX_COMPLETE` and
`STOP_ASYNC_TX` (spec/42_transmit_engine.md R111 to R136). An update event and the handlers it causes are one step
(R7, R176; log 14). -/

namespace Sys2Proof.Machine

/-! ## Start -/

/-- The lines of R111 before the pre-fill: the transition and the allocation of the context. -/
def allocateTx (ctx : Word) (s : State) : State :=
  { s with
    dstate := .asyncTx
    txAlloc := true
    txc := { s.txc with ctx := ctx, dutyH := 0, dutyL := 0, pendV := false } }

/-- The lines of R111 after the pre-fill: timer, DMA and update interrupt configured, armed, RF enabled, radio in
transmit (R113). `ARR` is left unspecified (R22; log 9). -/
def armTx (s : State) : State :=
  State.radioToTx
    { s with
      txt := { rd := 0, arr := Config.freeTick .arrAtStart s.draws, en := true, dmaEn := true, outT := .low,
               pin := .toggle, ieDma := true, ieUpd := true }
      rfEn := true }

/-- `START_ASYNC_TX ctx` (R111): the state is tested before the regulation flag (R173); a refusal answers 0 and does
nothing (R168); a fatal pre-fill leaves the hardware as it was. -/
def startAsyncTx (g : Tick) (ctx : Word) (s : State) : State :=
  whenLive s fun s =>
    match s.dstate with
    | .idle =>
      match s.reg with
      | .onlyRx => s.respond 0
      | .txRx =>
        let t := (allocateTx ctx s).refill g .prefill
        if t.fatal then t else (armTx t).respond 1
    | _ => s.raiseFatal .startTxBadState

/-! ## The timer update event -/

/-- The DMA transfer (R127, R43, R44): `ARR <- BUF[RD]`, `RD <- (RD + 1) mod 256`. -/
def dmaTransfer (s : State) : State :=
  { s with txt := { s.txt with arr := s.slot s.txt.rd.toNat, rd := s.txt.rd + 1 } }

/-- The toggle output (R129): a non-zero reload toggles and opens a segment at the pin's level, a zero does nothing. -/
def toggleOutput (s : State) : State :=
  if s.txt.arr = 0 then s
  else
    let t := { s with txt := { s.txt with outT := s.txt.outT.flip } }
    { t with wave := t.wave ++ [{ level := t.txt.pinLevel, ticks := t.txt.arr }] }

/-- The DMA interrupt handler (R128): half transfer when `RD` became 128, full transfer when it became 0; it refills
the half just consumed. -/
def dmaHandler (g : Tick) (s : State) : State :=
  if s.txt.rd = 128 then s.refill g .firstHalf
  else if s.txt.rd = 0 then s.refill g .secondHalf
  else s

/-- The update handler (R131): a zero reload takes `AsyncTx` to `AsyncTxLast` and forces the pin Low, and otherwise
ends in `AsyncTxEnd` with the timer stopped. -/
def updateHandler (s : State) : State :=
  if s.txt.arr = 0 then
    match s.dstate with
    | .asyncTx => { s with dstate := .asyncTxLast, txt := { s.txt with pin := .forcedLow } }
    | _ => { s with dstate := .asyncTxEnd, txt := { s.txt with en := false } }
  else s

/-- `TX_UPDATE` (R126): a fatal refill ends the step before the update handler. -/
def txUpdate (g : Tick) (s : State) : State :=
  whenEnabled s.txt.en s fun s =>
    let t := dmaHandler g (toggleOutput (dmaTransfer s))
    if t.fatal then t else updateHandler t

/-! ## Poll and stop -/

/-- `IS_ASYNC_TX_COMPLETE` (R135): responds 1 exactly in `AsyncTxEnd`. -/
def isAsyncTxComplete (s : State) : State :=
  whenLive s fun s => s.respond (boolResponse (decide (s.dstate = .asyncTxEnd)))

/-- `STOP_ASYNC_TX` (R136): the buffer, the accumulators and the parity of the freed context are left unspecified
(R29; log 8), after the accumulators were logged. -/
def stopAsyncTx (s : State) : State :=
  whenLive s fun s =>
    if s.dstate.transmits then
      { s.radioToIdle with
        rfEn := false
        txt := { s.txt with en := false, dmaEn := false, ieDma := false, ieUpd := false, pin := .inert }
        txc := { s.txc with
          buf := []
          dutyH := Config.freeDuty .dutyHAtStop s.draws
          dutyL := Config.freeDuty .dutyLAtStop s.draws
          parity := Config.freeFlag .parityAtStop s.draws
          pendV := false }
        log := { valid := true, dutyH := s.txc.dutyH, dutyL := s.txc.dutyL }
        txAlloc := false
        dstate := .idle
        draws := s.draws + 1 }
    else s.raiseFatal .stopTxBadState

/-- `START_ASYNC_TX` (R111). -/
def execStartAsyncTx (ctx : Word) (s : State) : Host.Outcome State Fault Refusal :=
  .next (startAsyncTx Config.guardTime ctx s)

/-- `TX_UPDATE` (R126). -/
def execTxUpdate (s : State) : Host.Outcome State Fault Refusal := .next (txUpdate Config.guardTime s)

/-- `IS_ASYNC_TX_COMPLETE` (R135). -/
def execIsAsyncTxComplete (s : State) : Host.Outcome State Fault Refusal := .next (isAsyncTxComplete s)

/-- `STOP_ASYNC_TX` (R136). -/
def execStopAsyncTx (s : State) : Host.Outcome State Fault Refusal := .next (stopAsyncTx s)

end Sys2Proof.Machine
end

