-- ==== Sys2Proof/Machine/Dispatch.lean ====
section
/-! DEFINITION. One arm per stimulus, each a direct call of its meaning (spec/30_encoding.md R63). -/

namespace Sys2Proof.Machine

def exec (i : Instr) (s : State) : Host.Outcome State Fault Refusal :=
  match i with
  -- commands of the host
  | .startAsyncRx ctx => Sys2Proof.Machine.execStartAsyncRx ctx s
  | .stopAsyncRx => Sys2Proof.Machine.execStopAsyncRx s
  | .startAsyncTx ctx => Sys2Proof.Machine.execStartAsyncTx ctx s
  | .stopAsyncTx => Sys2Proof.Machine.execStopAsyncTx s
  | .isAsyncTxComplete => Sys2Proof.Machine.execIsAsyncTxComplete s
  | .setFrequency hz => Sys2Proof.Machine.execSetFrequency hz s
  | .isTxAllowed hz => Sys2Proof.Machine.execIsTxAllowed hz s
  -- events of the environment and the test bench
  | .rxTick n => Sys2Proof.Machine.execRxTick n s
  | .rxFall => Sys2Proof.Machine.execRxFall s
  | .rxRise => Sys2Proof.Machine.execRxRise s
  | .txUpdate => Sys2Proof.Machine.execTxUpdate s
  | .srcPush y => Sys2Proof.Machine.execSrcPush y s
  | .reset => Sys2Proof.Machine.execReset s

end Sys2Proof.Machine
end

