-- ==== Sys2Proof/Machine/Step.lean ====
section
/-! DEFINITION. One step: the next stimulus word is taken, decoded and run (spec/00_scope.md R2 and R7). The core
fetches no program (R2): the words still to come are an input that State holds (log 1). -/

namespace Sys2Proof.Machine

/-- Takes the next stimulus word. With no word to come nothing happens: nothing bounds how long the environment waits
between two events (R8; log 1). An undefined `op` is fatal while `FATAL = 0` (R69). -/
def step (s : State) : Host.Outcome State Fault Refusal :=
  match s.stimuli with
  | [] => .next s
  | w :: rest =>
    match decode w with
    | .stimulus i => exec i { s with stimuli := rest }
    | .undefinedOp _ => .next (raiseBadOp { s with stimuli := rest })

/-- Places a row's word where `step` takes its next stimulus: at the head of the words to come. -/
def State.withFetchWord (s : State) (nbits w : Nat) : State :=
  { s with stimuli := BitVec.ofNat 40 (tableWord nbits w) :: s.stimuli }

end Sys2Proof.Machine
end

