-- ==== Sys2Proof/Machine/Assembler.lean ====
section
/-! DEFINITION. The textual syntax of a stimulus and the pseudo-stimuli (spec/30_encoding.md R71 and R72). A test
bench writes traces with them; no step reads them. -/

namespace Sys2Proof.Machine

/-! ## Pseudo-stimuli -/

/-- The pseudo-stimuli of R72. -/
inductive Pseudo where
  | symH (d : Nat)
  | symL (d : Nat)
  | symWait
  | symReset
  | symResetSticky (k : Nat)
  | txUpdates (k : Nat)
  deriving DecidableEq, Repr

/-- `SYM_H` and `SYM_L` take `0 <= d < 2^30` (R72). -/
def Pseudo.wellFormed : Pseudo → Bool
  | .symH d => Nat.blt d (2 ^ 30)
  | .symL d => Nat.blt d (2 ^ 30)
  | .symWait => true
  | .symReset => true
  | .symResetSticky _ => true
  | .txUpdates _ => true

/-- The expansion of each pseudo-stimulus (R72). -/
def Pseudo.expand : Pseudo → List Instr
  | .symH d => [.srcPush (0x80000000#32 + BitVec.ofNat 32 d)]
  | .symL d => [.srcPush (0x40000000#32 + BitVec.ofNat 32 d)]
  | .symWait => [.srcPush 0xC0000000#32]
  | .symReset => [.srcPush 0x00000000#32]
  | .symResetSticky k => List.replicate k (.srcPush 0x00000000#32)
  | .txUpdates k => List.replicate k .txUpdate

/-! ## One line of text -/

/-- A line without its comment: everything before the first `;` (R71). -/
def stripComment : List Char → List Char
  | [] => []
  | c :: cs => if c = ';' then [] else c :: stripComment cs

/-- The blank-separated parts of a line; `cur` holds the part being read, reversed. -/
def splitBlanks : List Char → List Char → List (List Char)
  | [], [] => []
  | [], cur => [cur.reverse]
  | c :: cs, cur =>
    if c = ' ' ∨ c = '\t' then
      match cur with
      | [] => splitBlanks cs []
      | _ :: _ => cur.reverse :: splitBlanks cs []
    else splitBlanks cs (c :: cur)

/-- The value of a digit in the given base, 10 or 16. -/
def digitOf (base : Nat) (c : Char) : Option Nat :=
  let n := c.toNat
  let v :=
    if 48 ≤ n ∧ n ≤ 57 then n - 48
    else if 65 ≤ n ∧ n ≤ 70 then n - 55
    else if 97 ≤ n ∧ n ≤ 102 then n - 87
    else base
  if v < base then some v else none

/-- The value of a digit string, continuing from `acc`. -/
def digitsOf (base : Nat) : List Char → Nat → Option Nat
  | [], acc => some acc
  | c :: cs, acc =>
    match digitOf base c with
    | some v => digitsOf base cs (acc * base + v)
    | none => none

/-- A decimal number, or `0x` and a hexadecimal number (R71); none where there is no digit. -/
def numberOf : List Char → Option Nat
  | '0' :: 'x' :: c :: cs => digitsOf 16 (c :: cs) 0
  | c :: cs => digitsOf 10 (c :: cs) 0
  | [] => none

/-- An argument: a number that fits 32 bits (R62). -/
def wordOf (cs : List Char) : Option Word :=
  match numberOf cs with
  | some n => if n < 2 ^ 32 then some (BitVec.ofNat 32 n) else none
  | none => none

/-- The mnemonic of R63 that names each stimulus. -/
def mnemonicOf : Instr → String
  | .startAsyncRx _ => "START_ASYNC_RX"
  | .stopAsyncRx => "STOP_ASYNC_RX"
  | .startAsyncTx _ => "START_ASYNC_TX"
  | .stopAsyncTx => "STOP_ASYNC_TX"
  | .isAsyncTxComplete => "IS_ASYNC_TX_COMPLETE"
  | .setFrequency _ => "SET_FREQUENCY"
  | .isTxAllowed _ => "IS_TX_ALLOWED"
  | .rxTick _ => "RX_TICK"
  | .rxFall => "RX_FALL"
  | .rxRise => "RX_RISE"
  | .txUpdate => "TX_UPDATE"
  | .srcPush _ => "SRC_PUSH"
  | .reset => "RESET"

/-- A stimulus whose row shows no argument. -/
def plainStimulus (m : List Char) : Option Instr :=
  [Instr.stopAsyncRx, .stopAsyncTx, .isAsyncTxComplete, .rxFall, .rxRise, .txUpdate, .reset].find?
    fun i => (mnemonicOf i).toList = m

/-- A stimulus whose row shows an argument. -/
def argStimulus (m : List Char) (a : Word) : Option Instr :=
  [Instr.startAsyncRx a, .startAsyncTx a, .setFrequency a, .isTxAllowed a, .rxTick a, .srcPush a].find?
    fun i => (mnemonicOf i).toList = m

/-- A pseudo-stimulus and its expansion, refused where its number is out of range (R72). -/
def pseudoStimuli (m : List Char) (n : Option Nat) : Option (List Instr) :=
  let p : Option Pseudo :=
    match n with
    | none => if m = "SYM_WAIT".toList then some .symWait else if m = "SYM_RESET".toList then some .symReset else none
    | some d =>
      if m = "SYM_H".toList then some (.symH d)
      else if m = "SYM_L".toList then some (.symL d)
      else if m = "SYM_RESET_STICKY".toList then some (.symResetSticky d)
      else if m = "TX_UPDATES".toList then some (.txUpdates d)
      else none
  match p with
  | some q => if q.wellFormed then some q.expand else none
  | none => none

/-- One line of a trace: the stimuli it stands for, none for a line that is blank or only a comment, or a refusal
(R71, R72). -/
def assembleLine (line : String) : Option (List Instr) :=
  match splitBlanks (stripComment line.toList) [] with
  | [] => some []
  | [m] =>
    match plainStimulus m with
    | some i => some [i]
    | none => pseudoStimuli m none
  | [m, a] =>
    match numberOf a with
    | none => none
    | some n =>
      match wordOf a with
      | some w =>
        match argStimulus m w with
        | some i => some [i]
        | none => pseudoStimuli m (some n)
      | none => pseudoStimuli m (some n)
  | _ => none

/-- One line of a stimulus: the mnemonic, then the argument if the row has one, in decimal (R71). -/
def disassemble (i : Instr) : String :=
  match argument? i with
  | some a => mnemonicOf i ++ " " ++ toString a.toNat
  | none => mnemonicOf i

end Sys2Proof.Machine
end

