-- ==== Sys2Proof/Machine/Observe.lean ====
section
/-! DEFINITION. What the outside sees of a state: the codes in which the spec prints it (spec/30_encoding.md R66 to
R68), the outputs before and after a fatal entry (spec/60_exceptions.md R170), the logged duty cycle
(spec/10_state.md R31), the real length of a segment that a stop cut short (R36), and the run at rest
(spec/70_reset_and_hazards.md R191). No step reads any of it. -/

namespace Sys2Proof.Machine

/-! ## Codes -/

/-- The encoding of `DSTATE` (R11). -/
def DState.code : DState → BitVec 3
  | .idle => 0
  | .asyncRx => 1
  | .asyncTx => 2
  | .asyncTxLast => 3
  | .asyncTxEnd => 4

/-- The code written to `FCAUSE` (R166). -/
def FatalCause.code : FatalCause → BitVec 4
  | .none => 0
  | .startRxBadState => 1
  | .stopRxBadState => 2
  | .startTxBadState => 3
  | .stopTxBadState => 4
  | .badOp => 5
  | .zeroDuration => 6

/-- The encoding of `REG` (R14). -/
def regulationCode : Regulation → BitVec 1
  | .onlyRx => 0
  | .txRx => 1

/-- The encoding of `RX_PIN` (R19). -/
def RxPin.code : RxPin → BitVec 1
  | .inert => 0
  | .capture => 1

/-- The encoding of `TX_PIN` (R24). -/
def TxPin.code : TxPin → BitVec 2
  | .inert => 0
  | .toggle => 1
  | .forcedLow => 2

/-- The encoding of `OUT_T` (R24). -/
def levelCode : Level → BitVec 1
  | .low => 0
  | .high => 1

/-- The encoding of `RADIO_MODE` (R30). -/
def radioModeCode : RadioMode → BitVec 2
  | .idle => 0
  | .rx => 1
  | .tx => 2
  | .none => 3

/-- The CaptureEvent word `e[32:0]`: `level` in bit 32, `duration` in bits 31:0 (R66). -/
def EdgeEvent.word (e : EdgeEvent) : BitVec 33 := BitVec.ofBool e.level ++ e.duration

/-- `RESP_V` of the last stimulus taken (R68). -/
def State.respV (s : State) : Bool := s.resp.isSome

/-! ## Outputs -/

/-- The level the radio sees on the transmit pin at the `k`-th look: `pin_level()`, and any value once the core is
fatal (R24, R170). -/
def State.shownPinLevel (k : Nat) (s : State) : PinLevel :=
  match s.fatal with
  | true => Config.freePinLevel k
  | false => s.txt.pinLevel

/-- The RF enable line at the `k`-th look: `RF_EN`, and any value once the core is fatal (R30, R170). -/
def State.shownRfEn (k : Nat) (s : State) : Bool :=
  match s.fatal with
  | true => Config.freeRfEn k
  | false => s.rfEn

/-- The radio's mode at the `k`-th look: `RADIO_MODE`, and any value once the core is fatal (R30, R170). -/
def State.shownRadioMode (k : Nat) (s : State) : RadioMode :=
  match s.fatal with
  | true => Config.freeRadioMode k
  | false => s.radioMode

/-- The calls the radio has received, oldest first, at the `k`-th look: `RADIO_LOG`, and any further calls after it once
the core is fatal (R35, R170). -/
def State.shownRadioLog (k : Nat) (s : State) : List RadioCall :=
  match s.fatal with
  | true => s.radioLog ++ Config.freeRadioCalls k
  | false => s.radioLog

/-- The duty cycle the `k`-th log shows: the exact rational `100 * LOG_DH / (LOG_DH + LOG_DL)`, and any value when
the sum is 0 (R31). The sum is of the numbers, not modulo 2^64. -/
def DutyLog.dutyCycle (k : Nat) (l : DutyLog) : Rat :=
  match l.dutyH.toNat + l.dutyL.toNat with
  | 0 => Config.freeDutyCycle k
  | n + 1 => (100 * l.dutyH.toNat : Rat) / ((n + 1 : Nat) : Rat)

/-- The real length of segment `k` of `WAVE` when a stop cut it short: any value from 0 to its ticks (R36). -/
def Segment.cutTicks (k : Nat) (g : Segment) : Nat := min (Config.freeCutTicks k) g.ticks.toNat

/-! ## Runs -/

/-- A run is at rest: `FATAL = 0` and `DSTATE = Idle` (R191). -/
def State.atRest (s : State) : Bool := !s.fatal && decide (s.dstate = .idle)

end Sys2Proof.Machine
end

