-- ==== Sys2Proof/WellFormed.lean ====
section
/-! DEFINITION. When a stimulus is well-formed. The types of `Instr` leave one thing to check: the symbol word of
`SRC_PUSH` is ill-formed when it is a `Timed` symbol of duration 0 (spec/30_encoding.md R65 and R69,
spec/70_reset_and_hazards.md R208). The core still takes an ill-formed word: the refill that meets it is fatal. -/

namespace Sys2Proof

/-- A symbol word is well-formed unless it is `Timed` (tag 1 or 2) with `dur = 0` (R65, R69). -/
def symbolWordWellFormed (y : Word) : Bool :=
  y != 0x40000000#32 && y != 0x80000000#32

/-- The check of a stimulus: the symbol pushed is well-formed (R65, R208); an argument is any 32-bit value (R62). -/
def Instr.wellFormed : Instr → Bool
  | .startAsyncRx _ => true
  | .stopAsyncRx => true
  | .startAsyncTx _ => true
  | .stopAsyncTx => true
  | .isAsyncTxComplete => true
  | .setFrequency _ => true
  | .isTxAllowed _ => true
  | .rxTick _ => true
  | .rxFall => true
  | .rxRise => true
  | .txUpdate => true
  | .srcPush y => symbolWordWellFormed y
  | .reset => true

end Sys2Proof
end

