-- ==== Sys2Proof/Safety.lean ====
section
/-! DEFINITION. What counts as a safe state and a safe run, in the terms the statements use
(spec/43_driver_state_machine.md R155, spec/70_reset_and_hazards.md R191 and R208). -/

namespace Sys2Proof.Safety

open Sys2Proof.Machine

/-- "at most one engine active" (R155): the six lines that hold in every reachable state with `FATAL = 0`. -/
structure DriverOk (s : State) : Prop where
  /-- `RX_EN = 1` exactly in `AsyncRx`. -/
  rxEn : s.rx.en = true ↔ s.dstate = .asyncRx
  /-- `IE_CC = RX_EN`. -/
  ieCc : s.rx.ieCc = s.rx.en
  /-- `RX_PIN = Capture` exactly in `AsyncRx`. -/
  rxPin : s.rx.pin = .capture ↔ s.dstate = .asyncRx
  /-- `TX_ALLOC = 1` exactly in the three transmit states. -/
  txAlloc : s.txAlloc = s.dstate.transmits
  /-- Then also `DMA_EN = IE_DMA = IE_UPD = 1` and `RF_EN = 1`. -/
  armed : s.dstate.transmits = true → s.txt.dmaEn = true ∧ s.txt.ieDma = true ∧ s.txt.ieUpd = true ∧ s.rfEn = true
  /-- `TX_EN = 1` exactly in `AsyncTx` and `AsyncTxLast`. -/
  txEn : s.txt.en = true ↔ s.dstate = .asyncTx ∨ s.dstate = .asyncTxLast
  /-- `TX_PIN = Toggle` exactly in `AsyncTx`. -/
  pinToggle : s.txt.pin = .toggle ↔ s.dstate = .asyncTx
  /-- `TX_PIN = ForcedLow` exactly in `AsyncTxLast` and `AsyncTxEnd`. -/
  pinForced : s.txt.pin = .forcedLow ↔ s.dstate = .asyncTxLast ∨ s.dstate = .asyncTxEnd
  /-- `RADIO_MODE` is `Rx` in `AsyncRx`. -/
  modeRx : s.dstate = .asyncRx → s.radioMode = .rx
  /-- `RADIO_MODE` is `Tx` in the three transmit states. -/
  modeTx : s.dstate.transmits = true → s.radioMode = .tx
  /-- `RADIO_MODE` is `Idle` or `None` in `Idle`. -/
  modeIdle : s.dstate = .idle → s.radioMode = .idle ∨ s.radioMode = .none

/-- R155 speaks of the states with `FATAL = 0` only. -/
def DriverInv (s : State) : Prop := s.fatal = false → DriverOk s

/-- The sample buffer is in its canonical form (log 7). -/
def BufferInv (s : State) : Prop := Memory.wf s.txc.buf

/-- While the timer runs, every slot of `BUF` has been written (R112, R38: no rule reads an unspecified value). -/
def WrittenInv (s : State) : Prop :=
  s.fatal = false → s.txt.en = true → ∀ k, k < Config.bufCap → (Memory.lookup s.txc.buf k).isSome = true

/-- A held symbol is a `High` symbol of a duration that is not 0 (R27, R123). -/
def HeldInv (s : State) : Prop :=
  s.fatal = false → s.txc.pendV = true → ∃ d, decodeSymbol s.txc.pendSym = .timed .high d ∧ d ≠ 0

/-- Until the first zero slot is loaded, `OUT_T` is the level of the slot last loaded: Low when `RD` is even, High when
it is odd (R116). -/
def ToggleInv (s : State) : Prop :=
  s.fatal = false → s.dstate = .asyncTx → (s.txt.outT = .high ↔ s.txt.rd.toNat % 2 = 1)

/-- `FCAUSE` is "(none)" exactly while `FATAL = 0` (R13, R166). -/
def CauseInv (s : State) : Prop := s.fatal = false ↔ s.fcause = .none

/-- The whole invariant: what every step keeps and reset meets. -/
structure Inv (s : State) : Prop where
  driver : DriverInv s
  buffer : BufferInv s
  written : WrittenInv s
  held : HeldInv s
  toggle : ToggleInv s
  cause : CauseInv s

/-- The symbols that the core could pull next without a fatal entry: every word of the script and a held word are
well-formed (R208). -/
def SourceWellFormed (s : State) : Prop :=
  (∀ y ∈ s.src.script, symbolWordWellFormed y = true) ∧
    (s.txc.pendV = true → symbolWordWellFormed s.txc.pendSym = true)

/-- The ticks that slots `k .. k + n - 1` of a memory hold on one side: the sum, modulo 2^64, of the values of those of
them that are odd (`odd = true`, Low periods) or even (`odd = false`, High periods); an unlisted slot counts 0 (R25,
R125). -/
def sideTicks (m : Memory) (odd : Bool) : Nat → Nat → Duty
  | 0, _ => 0
  | n + 1, k =>
    (if parityOf k = odd then ((Memory.lookup m k).getD 0).zeroExtend 64 else 0) + sideTicks m odd n (k + 1)

/-- The symbol words a refill will take next, in order: the held one, then the script (R118). -/
def upcoming (f : Fill) : List Word := (if f.ctx.pendV then [f.ctx.pendSym] else []) ++ f.src.script

/-- What `n` slots, the first of them odd or not, hold after the symbols were laid into them (R117 to R124), told on
lists alone: a symbol of the slot's level takes the slot, one of the other level takes a guard before it, `Reset` in an
odd slot takes a guard, and whatever is not reached is 0. No symbol to come counts as `Wait` (R72). -/
def layout (g : Tick) : Nat → Bool → List Symbol → List Tick
  | 0, _, _ => []
  | n + 1, _, [] => List.replicate (n + 1) 0
  | n + 1, _, .wait :: _ => List.replicate (n + 1) 0
  | n + 1, odd, .reset :: _ => (if odd then g else 0) :: List.replicate n 0
  | 1, odd, .timed l d :: _ => [if l = lvl odd then d else g]
  | n + 2, odd, .timed l d :: ss =>
    if l = lvl odd then d :: layout g (n + 1) (!odd) ss else g :: d :: layout g n odd ss

/-- The values that `Timed` symbols put into the slots from one of the given parity on, however many slots that takes
(R121, R122): a symbol of the slot's level takes the slot, one of the other level takes a guard before it. A symbol of
another kind ends the list. -/
def slotsOf (g : Tick) : Bool → List Symbol → List Tick
  | _, [] => []
  | _, .wait :: _ => []
  | _, .reset :: _ => []
  | odd, .timed l d :: ss => if l = lvl odd then d :: slotsOf g (!odd) ss else g :: d :: slotsOf g odd ss

/-- Which symbols are still to come after `n` slots were filled: each is taken once, in order, and one whose guard took
the last slot is still to come (R118, R123). -/
def remaining : Nat → Bool → List Symbol → List Symbol
  | 0, _, ss => ss
  | _ + 1, _, [] => []
  | _ + 1, _, .wait :: ss => ss
  | _ + 1, _, .reset :: ss => ss
  | 1, odd, .timed l d :: ss => if l = lvl odd then ss else .timed l d :: ss
  | n + 2, odd, .timed l _ :: ss => if l = lvl odd then remaining (n + 1) (!odd) ss else remaining n odd ss

/-- A trace is well-formed when no event in it comes while its guard is false (R70). -/
def TraceWellFormed : List Instr → State → Prop
  | [], _ => True
  | i :: is, s => guard i s = true ∧ ∀ t, exec i s = .next t → TraceWellFormed is t

/-- A run has gone wrong when `FATAL = 1`; no claim is made about it (R170, R191). -/
def Faulted (s : State) : Prop := s.fatal = true

end Sys2Proof.Safety
end

