-- ==== Sys2Proof/Certificates/Slice0/Obligations.lean ====
section
/-! DEFINITION. The statements for the provers, each a proposition about the machine, in the order of OBLIGATIONS.json.
The docstrings cite the rules of spec/ they formalise. -/

open Sys2Proof Sys2Proof.Machine

/-! ## Encodings -/

/-- R60 to R63: decoding an encoded stimulus gives it back, with every argument; and whatever a word decodes to has the
word's `op`, and the word's `arg` where it has an argument. -/
def Obligations.DecodeAndEncodeAgree : Prop :=
  (∀ i, decode (encode i) = .stimulus i) ∧
    ∀ w i, decode w = .stimulus i → opOf w = opcode i ∧ (argument? i = none ∨ argument? i = some (argOf w))

/-- R63, R71: words written out in the spec decode to the stimuli they stand for, one of each row. -/
def Obligations.SpecWordsDecode : Prop :=
  decode 0x0100000011#40 = .stimulus (.startAsyncRx 0x11) ∧
  decode 0x02DEADBEEF#40 = .stimulus .stopAsyncRx ∧
  decode 0x0300000022#40 = .stimulus (.startAsyncTx 0x22) ∧
  decode 0x0400000000#40 = .stimulus .stopAsyncTx ∧
  decode 0x0500000000#40 = .stimulus .isAsyncTxComplete ∧
  decode 0x0619DD1800#40 = .stimulus (.setFrequency 433920000) ∧
  decode 0x0733C1F830#40 = .stimulus (.isTxAllowed 868350000) ∧
  decode 0x80FFFFFFFF#40 = .stimulus (.rxTick 4294967295) ∧
  decode 0x8100000000#40 = .stimulus .rxFall ∧
  decode 0x8200000000#40 = .stimulus .rxRise ∧
  decode 0x83FFFFFFFF#40 = .stimulus .txUpdate ∧
  decode 0x8480000064#40 = .stimulus (.srcPush 0x80000064) ∧
  decode 0xFF00000000#40 = .stimulus .reset

/-- R61, R63, R69: exactly the 13 values of `op` in the table decode, and bit 39 of a word that decodes tells a command
from an event. -/
def Obligations.OpcodeMapIsComplete : Prop :=
  (∀ w, (∃ i, decode w = .stimulus i) ↔
    (opOf w).toNat ∈ [0x01, 0x02, 0x03, 0x04, 0x05, 0x06, 0x07, 0x80, 0x81, 0x82, 0x83, 0x84, 0xFF]) ∧
  ∀ w i, decode w = .stimulus i → (isEventWord w = true ↔
    (∃ n, i = .rxTick n) ∨ i = .rxFall ∨ i = .rxRise ∨ i = .txUpdate ∨ (∃ y, i = .srcPush y) ∨ i = .reset)

/-- R64, R65: bits 31:30 choose the kind of a symbol, bits 29:0 are its duration, never scaled; and decoding a symbol's
`word` gives the symbol back, for `Wait`, for `Reset` and for every `Timed` symbol whose duration fits in 30 bits. -/
def Obligations.SymbolWordsDecode : Prop :=
  (∀ y : Word, decodeSymbol y =
    if y.toNat < 2 ^ 30 then .reset
    else if y.toNat < 2 ^ 31 then .timed .low (BitVec.ofNat 32 (y.toNat % 2 ^ 30))
    else if y.toNat < 3 * 2 ^ 30 then .timed .high (BitVec.ofNat 32 (y.toNat % 2 ^ 30))
    else .wait) ∧
  ∀ s : Symbol, (∀ l d, s = .timed l d → d.toNat < 2 ^ 30) → decodeSymbol (encodeSymbol s) = s

/-- R72: the pseudo-stimuli of symbols push words that decode to those symbols, for every duration they may carry;
`SYM_RESET_STICKY k` pushes `k` words that decode to `Reset`, and `TX_UPDATES k` is `TX_UPDATE` `k` times. -/
def Obligations.PseudoStimuliExpand : Prop :=
  (∀ d : Nat, d < 2 ^ 30 →
    (∃ y, (Pseudo.symH d).expand = [.srcPush y] ∧ decodeSymbol y = .timed .high (BitVec.ofNat 32 d)) ∧
    (∃ y, (Pseudo.symL d).expand = [.srcPush y] ∧ decodeSymbol y = .timed .low (BitVec.ofNat 32 d))) ∧
  (∃ y, Pseudo.symWait.expand = [.srcPush y] ∧ decodeSymbol y = .wait) ∧
  (∃ y, Pseudo.symReset.expand = [.srcPush y] ∧ decodeSymbol y = .reset) ∧
  ∀ k : Nat,
    (∃ y, (Pseudo.symResetSticky k).expand = List.replicate k (.srcPush y) ∧ decodeSymbol y = .reset) ∧
    (Pseudo.txUpdates k).expand = List.replicate k .txUpdate

/-- R66: a capture event's word has the level in bit 32 and the duration in bits 31:0. -/
def Obligations.EdgeWordCarriesTheEvent : Prop :=
  ∀ e : EdgeEvent, e.word.toNat = (if e.level then 2 ^ 32 else 0) + e.duration.toNat

/-- R11, R14, R19, R24, R30, R166: the codes in which the spec prints the enumerated elements. -/
def Obligations.CodesAreTheTables : Prop :=
  [DState.idle, .asyncRx, .asyncTx, .asyncTxLast, .asyncTxEnd].map DState.code = [0, 1, 2, 3, 4] ∧
  [FatalCause.none, .startRxBadState, .stopRxBadState, .startTxBadState, .stopTxBadState, .badOp,
    .zeroDuration].map FatalCause.code = [0, 1, 2, 3, 4, 5, 6] ∧
  [Regulation.onlyRx, .txRx].map regulationCode = [0, 1] ∧
  [RxPin.inert, .capture].map RxPin.code = [0, 1] ∧
  [TxPin.inert, .toggle, .forcedLow].map TxPin.code = [0, 1, 2] ∧
  [Level.low, .high].map levelCode = [0, 1] ∧
  [RadioMode.idle, .rx, .tx, .none].map radioModeCode = [0, 1, 2, 3]

/-! ## The step -/

/-- R2, R7 and log 1: a step takes the next stimulus word; if it decodes, the step is `exec` of the stimulus on the state
without that word; with no word to come nothing changes. -/
def Obligations.StepRunsDecodedStimulus : Prop :=
  (∀ s w rest i, s.stimuli = w :: rest → decode w = .stimulus i → step s = exec i { s with stimuli := rest }) ∧
    ∀ s, s.stimuli = [] → step s = .next s

/-- R69, R170, R173: a word whose `op` is in no row of the table is fatal with cause `BadOp` while `FATAL = 0`, and
writes nothing else. -/
def Obligations.UndefinedOpIsFatal : Prop :=
  ∀ s w rest, s.fatal = false → s.stimuli = w :: rest →
    (opOf w).toNat ∉ [0x01, 0x02, 0x03, 0x04, 0x05, 0x06, 0x07, 0x80, 0x81, 0x82, 0x83, 0x84, 0xFF] →
    step s = .next { s with stimuli := rest, resp := none, fatal := true, fcause := .badOp }

/-- Every state has a next state, whatever the next word. The spec gives the step of a word that runs (R7: to its end,
R110, R212: nothing blocks), of an undefined `op` (R69) and of a word in the fatal state (R171). That the other cases
have a step is the model's choice: an event with a false guard is ignored as R70 says, where U14 allows it no step
(log 11), a fatal entry is a state and not a stop (log 10), and with no word to come the state stays as it is (log 1). -/
def Obligations.EveryStateHasANext : Prop :=
  ∀ s, ∃ t, step s = .next t

/-! ## Reset and the fatal state -/

/-- R38: the elements whose reset value the spec gives, in the reset state. -/
def Obligations.ResetStateIsTheTable : Prop :=
  State.reset.dstate = .idle ∧ State.reset.fatal = false ∧ State.reset.fcause = .none ∧
  State.reset.reg = Config.regulationAtReset ∧ State.reset.lastFreqV = false ∧ State.reset.rx.en = false ∧
  State.reset.rx.pin = .inert ∧ State.reset.txt.en = false ∧ State.reset.txt.dmaEn = false ∧
  State.reset.txAlloc = false ∧ State.reset.txc.pendV = false ∧ State.reset.txt.pin = .inert ∧
  State.reset.radioMode = .none ∧ State.reset.rfEn = false ∧ State.reset.log.valid = false ∧
  State.reset.rx.ieCc = false ∧ State.reset.txt.ieDma = false ∧ State.reset.txt.ieUpd = false ∧
  State.reset.edgeOut = [] ∧ State.reset.radioLog = [] ∧ State.reset.wave = [] ∧ State.reset.src.script = []

/-- R190: from every state, a fatal one too, `RESET` gives every element its reset value where the spec states one,
empties the traces and the script, and makes no radio call. That the stimuli still to come stay is the model's choice
(log 1). -/
def Obligations.ResetStimulusRestoresTheTable : Prop :=
  ∀ s, ∃ t, exec .reset s = .next t ∧
    t.dstate = .idle ∧ t.fatal = false ∧ t.fcause = .none ∧ t.reg = Config.regulationAtReset ∧ t.lastFreqV = false ∧
    t.rx.en = false ∧ t.rx.pin = .inert ∧ t.rx.ieCc = false ∧ t.txt.en = false ∧ t.txt.dmaEn = false ∧
    t.txt.ieDma = false ∧ t.txt.ieUpd = false ∧ t.txt.pin = .inert ∧ t.txAlloc = false ∧ t.txc.pendV = false ∧
    t.radioMode = .none ∧ t.rfEn = false ∧ t.log.valid = false ∧ t.edgeOut = [] ∧ t.radioLog = [] ∧ t.wave = [] ∧
    t.src.script = [] ∧ t.resp = none ∧ t.stimuli = s.stimuli

/-- R171: while `FATAL = 1` every stimulus but `RESET`, a word whose `op` is undefined too, is ignored: no state changes
and no response is produced. -/
def Obligations.FatalIgnoresAllButReset : Prop :=
  (∀ i s, s.fatal = true → i ≠ .reset → exec i s = .next { s with resp := none }) ∧
    ∀ s w rest op, s.fatal = true → s.stimuli = w :: rest → decode w = .undefinedOp op →
      step s = .next { s with stimuli := rest, resp := none }

/-- R13, R170, R172: only a fatal entry sets `FATAL`, only `RESET` clears it, and `FCAUSE` keeps the first cause. -/
def Obligations.FatalIsSticky : Prop :=
  ∀ i s t, exec i s = .next t → i ≠ .reset →
    (s.fatal = true → t.fatal = true ∧ t.fcause = s.fcause) ∧
    (s.fatal = false → t.fatal = false → t.fcause = s.fcause)

/-- R70: an event whose guard is false changes no state and raises no fault. -/
def Obligations.DisabledEventsAreIgnored : Prop :=
  ∀ s, (s.rx.en = false →
      (∀ n, exec (.rxTick n) s = .next { s with resp := none }) ∧
      exec .rxFall s = .next { s with resp := none } ∧ exec .rxRise s = .next { s with resp := none }) ∧
    (s.txt.en = false → exec .txUpdate s = .next { s with resp := none })

/-- R153, R154, R166: a command in a state its precondition excludes raises `Fatal` with its cause and writes nothing
else. -/
def Obligations.WrongStateCommandsAreFatal : Prop :=
  ∀ s, s.fatal = false →
    (s.dstate ≠ .idle → ∀ ctx,
      exec (.startAsyncRx ctx) s = .next { s with resp := none, fatal := true, fcause := .startRxBadState }) ∧
    (s.dstate ≠ .asyncRx →
      exec .stopAsyncRx s = .next { s with resp := none, fatal := true, fcause := .stopRxBadState }) ∧
    (s.dstate ≠ .idle → ∀ ctx,
      exec (.startAsyncTx ctx) s = .next { s with resp := none, fatal := true, fcause := .startTxBadState }) ∧
    (s.dstate ≠ .asyncTx → s.dstate ≠ .asyncTxLast → s.dstate ≠ .asyncTxEnd →
      exec .stopAsyncTx s = .next { s with resp := none, fatal := true, fcause := .stopTxBadState })

/-! ## RegionPolicy -/

/-- R80, R81: `IS_TX_ALLOWED` responds 1 if the region is no key of the table or the frequency is inside a band of it,
both ends inside, and 0 otherwise; nothing else changes. -/
def Obligations.IsTxAllowedResponds : Prop :=
  ∀ hz s, s.fatal = false → ∃ v : Word, exec (.isTxAllowed hz) s = .next { s with resp := some v } ∧
    (v = 0 ∨ v = 1) ∧
    (v = 1 ↔ ∀ bands, bandsOf Config.region Config.regionTable = some bands →
      ∃ b ∈ bands, b.lo.toNat ≤ hz.toNat ∧ hz.toNat ≤ b.hi.toNat)

/-- R82: `SET_FREQUENCY` tunes the radio, sets `REG` from the requested frequency and `LAST_FREQ` from the actual one,
responds the actual one, and changes nothing else, in every `DSTATE`. -/
def Obligations.SetFrequencyTunes : Prop :=
  ∀ hz s, s.fatal = false → ∃ r, exec (.setFrequency hz) s = .next { s with
      radioLog := s.radioLog ++ [.setFrequency hz]
      reg := r
      lastFreq := Config.radioTune hz
      lastFreqV := true
      resp := some (Config.radioTune hz) } ∧
    (r = .txRx ↔ allowed hz = true)

/-! ## CaptureEngine -/

/-- R92: `START_ASYNC_RX` from `Idle` starts the reception and changes nothing else; from any other state it is fatal and
writes nothing before the check. -/
def Obligations.StartRxCompletes : Prop :=
  ∀ ctx s, s.fatal = false →
    (s.dstate = .idle → exec (.startAsyncRx ctx) s = .next { s with
      dstate := .asyncRx
      rx := { en := true, cnt := 0, ccrA := 0, ccrB := 0, delta := 0, ctx := ctx, pin := .capture, ieCc := true }
      radioLog := s.radioLog ++ [.switchToRx]
      radioMode := .rx
      resp := none }) ∧
    (s.dstate ≠ .idle → exec (.startAsyncRx ctx) s = .next { s with
      fatal := true, fcause := .startRxBadState, resp := none })

/-- R98: `STOP_ASYNC_RX` from `AsyncRx` ends the reception, the capture registers and the context keeping their values,
and changes nothing else; from any other state it is fatal. -/
def Obligations.StopRxCompletes : Prop :=
  ∀ s, s.fatal = false →
    (s.dstate = .asyncRx → exec .stopAsyncRx s = .next { s with
      dstate := .idle
      rx := { s.rx with en := false, ieCc := false, pin := .inert }
      radioLog := s.radioLog ++ [.switchToIdle]
      radioMode := .idle
      resp := none }) ∧
    (s.dstate ≠ .asyncRx → exec .stopAsyncRx s = .next { s with
      fatal := true, fcause := .stopRxBadState, resp := none })

/-- R94: `RX_TICK n` adds `n` to the counter modulo 2^32 and changes nothing else. -/
def Obligations.RxTickCounts : Prop :=
  ∀ n s, s.fatal = false → s.rx.en = true → ∃ c : Tick,
    exec (.rxTick n) s = .next { s with rx := { s.rx with cnt := c }, resp := none } ∧
    c.toNat = (s.rx.cnt.toNat + n.toNat) % 2 ^ 32

/-- R95: `RX_FALL` captures the counter, latches it as the mark and reports it; the counter goes on. -/
def Obligations.RxFallReportsMark : Prop :=
  ∀ s, s.fatal = false → s.rx.en = true → exec .rxFall s = .next { s with
    rx := { s.rx with ccrA := s.rx.cnt, delta := s.rx.cnt }
    edgeOut := s.edgeOut ++ [{ ctx := s.rx.ctx, level := true, duration := s.rx.cnt }]
    resp := none }

/-- R96: `RX_RISE` captures the counter, resets it and reports the space, the capture less the mark modulo 2^32. -/
def Obligations.RxRiseReportsSpace : Prop :=
  ∀ s, s.fatal = false → s.rx.en = true → ∃ d : Tick,
    exec .rxRise s = .next { s with
      rx := { s.rx with ccrB := s.rx.cnt, cnt := 0 }
      edgeOut := s.edgeOut ++ [{ ctx := s.rx.ctx, level := false, duration := d }]
      resp := none } ∧
    d.toNat = (s.rx.cnt.toNat + (2 ^ 32 - s.rx.delta.toNat)) % 2 ^ 32

/-- R97: a full period rise, fall, rise with the fall `m` ticks after the first rise and the second rise `m + s` ticks
after it emits `(true, m)` and then `(false, s)`, whatever the registers held before the first rise. -/
def Obligations.FullPeriodIsReported : Prop :=
  ∀ (m s : Nat) (a b c d e f : State), m + s < 2 ^ 32 → a.fatal = false → a.rx.en = true →
    exec .rxRise a = .next b → exec (.rxTick (BitVec.ofNat 32 m)) b = .next c → exec .rxFall c = .next d →
    exec (.rxTick (BitVec.ofNat 32 s)) d = .next e → exec .rxRise e = .next f →
    f.edgeOut = b.edgeOut ++ [{ ctx := a.rx.ctx, level := true, duration := BitVec.ofNat 32 m },
      { ctx := a.rx.ctx, level := false, duration := BitVec.ofNat 32 s }]

/-- R94's corner case: two ticks events with no edge between equal one, up to the modular sum. -/
def Obligations.TicksAdd : Prop :=
  ∀ (a b : Word) s t u, exec (.rxTick a) s = .next t → exec (.rxTick b) t = .next u →
    exec (.rxTick (a + b)) s = .next u

/-! ## TransmitEngine: commands -/

/-- R111, R168: `START_ASYNC_TX` with `REG = OnlyRx` responds 0 and changes nothing. -/
def Obligations.StartTxIsRefused : Prop :=
  ∀ ctx s, s.fatal = false → s.dstate = .idle → s.reg = .onlyRx →
    exec (.startAsyncTx ctx) s = .next { s with resp := some 0 }

/-- R111, R112, R113: `START_ASYNC_TX` from `Idle` with `REG = TxRx`, when the pre-fill ends without a zero duration,
starts: the context is allocated and pre-filled by `refill(0, 256)`, every slot of the buffer is written, the accumulators hold what
the even and the odd slots hold, the hardware is armed, and nothing else changes. -/
def Obligations.StartTxCompletes : Prop :=
  ∀ ctx s, s.fatal = false → s.dstate = .idle → s.reg = .txRx →
    (∃ n f', refill Config.guardTime .prefill
      ⟨{ s.txc with ctx := ctx, dutyH := 0, dutyL := 0, pendV := false }, s.src⟩ = .done n f') →
    ∃ t, exec (.startAsyncTx ctx) s = .next t ∧
      refill Config.guardTime .prefill
        ⟨{ s.txc with ctx := ctx, dutyH := 0, dutyL := 0, pendV := false }, s.src⟩ = .done 0 ⟨t.txc, t.src⟩ ∧
      (∀ k, k < 256 → ∃ v, Memory.lookup t.txc.buf k = some v ∧ t.slot k = v) ∧
      t.txc.dutyH = Safety.sideTicks t.txc.buf false 256 0 ∧ t.txc.dutyL = Safety.sideTicks t.txc.buf true 256 0 ∧
      t.txc.ctx = ctx ∧ t.dstate = .asyncTx ∧ t.txAlloc = true ∧
      t.txt.rd = 0 ∧ t.txt.outT = .low ∧ t.txt.pin = .toggle ∧ t.txt.dmaEn = true ∧ t.txt.ieDma = true ∧
      t.txt.ieUpd = true ∧ t.txt.en = true ∧ t.rfEn = true ∧ t.radioMode = .tx ∧
      t.radioLog = s.radioLog ++ [.switchToTx] ∧ t.resp = some 1 ∧
      t.fatal = false ∧ t.fcause = s.fcause ∧ t.reg = s.reg ∧ t.lastFreqV = s.lastFreqV ∧ t.lastFreq = s.lastFreq ∧
      t.rx = s.rx ∧ t.log = s.log ∧ t.edgeOut = s.edgeOut ∧ t.wave = s.wave ∧ t.stimuli = s.stimuli

/-- R111, R122, R172: a pre-fill that ends at a `Timed` symbol of duration 0 is fatal: the transition, the allocation and
what the pre-fill wrote stay, the hardware and the radio are not touched, and nothing else changes. -/
def Obligations.StartTxZeroDurationIsFatal : Prop :=
  ∀ ctx s f', s.fatal = false → s.dstate = .idle → s.reg = .txRx →
    refill Config.guardTime .prefill
      ⟨{ s.txc with ctx := ctx, dutyH := 0, dutyL := 0, pendV := false }, s.src⟩ = .zeroDuration f' →
    exec (.startAsyncTx ctx) s = .next { s with
      dstate := .asyncTx, txAlloc := true, txc := f'.ctx, src := f'.src,
      fatal := true, fcause := .zeroDuration, resp := none }

/-- R135: `IS_ASYNC_TX_COMPLETE` responds 1 exactly in `AsyncTxEnd`, in every state, and changes nothing else. -/
def Obligations.IsCompleteResponds : Prop :=
  ∀ s, s.fatal = false → ∃ v : Word, exec .isAsyncTxComplete s = .next { s with resp := some v } ∧
    (s.dstate = .asyncTxEnd → v = 1) ∧ (s.dstate ≠ .asyncTxEnd → v = 0)

/-- R136: `STOP_ASYNC_TX` in the three transmit states does everything the rule names, and nothing else but that the
contents of `BUF`, `DUTY_H`, `DUTY_L` and `PARITY` become what R29 leaves unspecified; from any other state it is fatal. -/
def Obligations.StopTxCompletes : Prop :=
  ∀ s, s.fatal = false →
    (s.dstate = .asyncTx ∨ s.dstate = .asyncTxLast ∨ s.dstate = .asyncTxEnd →
      ∃ t, exec .stopAsyncTx s = .next t ∧ t.dstate = .idle ∧
        t.radioLog = s.radioLog ++ [.switchToIdle] ∧ t.radioMode = .idle ∧ t.rfEn = false ∧
        t.txt = { s.txt with en := false, dmaEn := false, ieDma := false, ieUpd := false, pin := .inert } ∧
        t.log = { valid := true, dutyH := s.txc.dutyH, dutyL := s.txc.dutyL } ∧
        t.txAlloc = false ∧ t.txc.pendV = false ∧ t.txc.pendSym = s.txc.pendSym ∧ t.txc.ctx = s.txc.ctx ∧
        t.resp = none ∧ t.fatal = false ∧ t.fcause = s.fcause ∧ t.reg = s.reg ∧ t.lastFreqV = s.lastFreqV ∧
        t.lastFreq = s.lastFreq ∧ t.rx = s.rx ∧ t.edgeOut = s.edgeOut ∧ t.wave = s.wave ∧ t.src = s.src ∧
        t.stimuli = s.stimuli) ∧
    (s.dstate = .idle ∨ s.dstate = .asyncRx → exec .stopAsyncTx s = .next { s with
      fatal := true, fcause := .stopTxBadState, resp := none })

/-- R31: when the two logged accumulators are not both 0 the logged duty cycle is the exact rational
`100 * LOG_DH / (LOG_DH + LOG_DL)`. -/
def Obligations.DutyCycleIsTheExactRatio : Prop :=
  ∀ (k : Nat) (l : DutyLog), 0 < l.dutyH.toNat + l.dutyL.toNat →
    l.dutyCycle k * ((l.dutyH.toNat : Rat) + (l.dutyL.toNat : Rat)) = 100 * (l.dutyH.toNat : Rat)

/-! ## TransmitEngine: the refill -/

/-- R45, R115, R122: a refill that completes writes exactly the slots of its window: each of them holds the value that
`Safety.layout` gives its place, whatever it held before, and every slot outside reads as before; one that stops at a
zero duration writes no slot outside it either. The canonical form of the buffer, which is the model's (log 7), is kept
in both. -/
def Obligations.RefillWritesExactlyItsWindow : Prop :=
  (∀ (w : Window) (f f' : Fill) (n : Nat), refill Config.guardTime w f = .done n f' →
    (∀ j, j < w.count → ∃ v,
      (Safety.layout Config.guardTime w.count false ((Safety.upcoming f).map decodeSymbol))[j]? = some v ∧
      Memory.lookup f'.ctx.buf (w.base + j) = some v) ∧
    (∀ e k, ¬(w.base ≤ k ∧ k < w.base + w.count) → Memory.read e f'.ctx.buf k = Memory.read e f.ctx.buf k) ∧
    (Memory.wf f.ctx.buf → Memory.wf f'.ctx.buf)) ∧
  ∀ (w : Window) (f f' : Fill), refill Config.guardTime w f = .zeroDuration f' →
    (∀ e k, ¬(w.base ≤ k ∧ k < w.base + w.count) → Memory.read e f'.ctx.buf k = Memory.read e f.ctx.buf k) ∧
    (Memory.wf f.ctx.buf → Memory.wf f'.ctx.buf)

/-- R125, duty accounting: what a completed refill adds to `DUTY_H` is the sum over the even slots of its window, and
what it adds to `DUTY_L` the sum over the odd ones, guard slots included. -/
def Obligations.RefillCountsDuty : Prop :=
  ∀ (w : Window) (f f' : Fill) (n : Nat), refill Config.guardTime w f = .done n f' →
    f'.ctx.dutyH = f.ctx.dutyH + Safety.sideTicks f'.ctx.buf false w.count w.base ∧
    f'.ctx.dutyL = f.ctx.dutyL + Safety.sideTicks f'.ctx.buf true w.count w.base

/-- R117 to R124: a refill that completes lays the symbols to come into its window as the list function `Safety.layout`
says, leaves no slot of it over, and takes each symbol once and in order as `Safety.remaining` says; and it completes
when none of the next symbols, as many as the window has slots, is a zero duration. -/
def Obligations.RefillRefinesTheLayout : Prop :=
  (∀ (w : Window) (f f' : Fill) (n : Nat), refill Config.guardTime w f = .done n f' → n = 0 ∧
    (∀ j, j < w.count → Memory.lookup f'.ctx.buf (w.base + j) =
      (Safety.layout Config.guardTime w.count false ((Safety.upcoming f).map decodeSymbol))[j]?) ∧
    (Safety.upcoming f').map decodeSymbol = Safety.remaining w.count false ((Safety.upcoming f).map decodeSymbol)) ∧
  ∀ (w : Window) (f : Fill), (∀ y ∈ (Safety.upcoming f).take w.count, symbolWordWellFormed y = true) →
    ∃ f', refill Config.guardTime w f = .done 0 f'

/-- R121, R122: a refill stops at a `Timed` symbol of duration 0, for every window. Where it is the first symbol, nothing
is written or counted. Where `Timed` symbols stand before it and leave a slot of the window over, their slots stay
written, with guards where R121 puts them, and stay counted, and every other slot reads as before: no zero fill runs.
In both the symbol was pulled, and none after it. And a refill stops in no other way. -/
def Obligations.ZeroDurationStopsTheRefill : Prop :=
  (∀ (w : Window) (f : Fill) y ys, f.ctx.pendV = false → f.src.script = y :: ys → symbolWordWellFormed y = false →
    ∃ f', refill Config.guardTime w f = .zeroDuration f' ∧ f'.ctx.buf = f.ctx.buf ∧ f'.ctx.dutyH = f.ctx.dutyH ∧
      f'.ctx.dutyL = f.ctx.dutyL ∧ f'.src.script = ys) ∧
  (∀ (w : Window) (f : Fill) (ys zs : List Word) (y : Word) (slots : List Tick),
    Safety.upcoming f = ys ++ y :: zs → (∀ x ∈ ys, ∃ l d, decodeSymbol x = .timed l d ∧ d ≠ 0) →
    symbolWordWellFormed y = false → Safety.slotsOf Config.guardTime false (ys.map decodeSymbol) = slots →
    slots.length < w.count →
    ∃ f', refill Config.guardTime w f = .zeroDuration f' ∧
      (∀ j, j < slots.length → Memory.lookup f'.ctx.buf (w.base + j) = slots[j]?) ∧
      (∀ k, ¬(w.base ≤ k ∧ k < w.base + slots.length) → Memory.lookup f'.ctx.buf k = Memory.lookup f.ctx.buf k) ∧
      f'.ctx.dutyH = f.ctx.dutyH + Safety.sideTicks f'.ctx.buf false slots.length w.base ∧
      f'.ctx.dutyL = f.ctx.dutyL + Safety.sideTicks f'.ctx.buf true slots.length w.base ∧
      f'.ctx.pendV = false ∧ f'.src.script = zs) ∧
  ∀ (w : Window) (f f' : Fill), refill Config.guardTime w f = .zeroDuration f' →
    ∃ ys y zs, Safety.upcoming f = ys ++ y :: zs ∧ (∀ x ∈ ys, ∃ l d, decodeSymbol x = .timed l d ∧ d ≠ 0) ∧
      symbolWordWellFormed y = false ∧
      (Safety.slotsOf Config.guardTime false (ys.map decodeSymbol)).length < w.count

/-- R119, R124, R125, Wait padding: when the next symbol is `Wait`, every slot of the window is 0 and the accumulators
do not change. -/
def Obligations.WaitPadsWithZeros : Prop :=
  ∀ (w : Window) (f : Fill), (Safety.upcoming f = [] ∨ ∃ y ys, Safety.upcoming f = y :: ys ∧ decodeSymbol y = .wait) →
    ∃ f', refill Config.guardTime w f = .done 0 f' ∧
      (∀ k, w.base ≤ k → k < w.base + w.count → Memory.lookup f'.ctx.buf k = some 0) ∧
      f'.ctx.dutyH = f.ctx.dutyH ∧ f'.ctx.dutyL = f.ctx.dutyL

/-- R120, R125, clean termination: when a refill processes a `Reset` after `Timed` symbols that fit, the slots before
some even slot are not 0 and all from it on are 0, so the last slot that is not 0 is odd, a Low period. -/
def Obligations.ResetEndsLow : Prop :=
  ∀ (w : Window) (f : Fill) (ys zs : List Word) (r : Word), Safety.upcoming f = ys ++ r :: zs →
    (∀ y ∈ ys, ∃ l d, decodeSymbol y = .timed l d ∧ d ≠ 0) → decodeSymbol r = .reset → 2 * ys.length < w.count →
    ∃ f' m, refill Config.guardTime w f = .done 0 f' ∧ m ≤ w.count ∧ m % 2 = 0 ∧
      (∀ j, j < m → ∃ v, Memory.lookup f'.ctx.buf (w.base + j) = some v ∧ v ≠ 0) ∧
      (∀ j, m ≤ j → j < w.count → Memory.lookup f'.ctx.buf (w.base + j) = some 0)

/-- R28, R117, R118, R125: a refill, completed or stopped by a zero duration, calls `pull` at most once per slot asked for,
takes the script's words in order, passes `TX_CTX` to every call, and leaves `TX_CTX` as it was. -/
def Obligations.PullsAreBoundedAndInOrder : Prop :=
  ∀ (w : Window) (f f' : Fill),
    (∃ n, refill Config.guardTime w f = .done n f') ∨ refill Config.guardTime w f = .zeroDuration f' →
    f'.ctx.ctx = f.ctx.ctx ∧
    ∃ new, f'.src.calls = f.src.calls ++ new ∧ new.length ≤ w.count ∧
      f'.src.script = f.src.script.drop new.length ∧ ∀ c ∈ new, c.ctx = f.ctx.ctx

/-- R118, R123: a held `High` symbol takes the first slot of the next refill, without a guard before it, whatever the
source answers; and a symbol that a completed refill holds is a `High` symbol behind a guard in the window's last slot. -/
def Obligations.HeldSymbolIsNotLost : Prop :=
  (∀ (w : Window) (f f' : Fill) (n : Nat) (d : Tick), f.ctx.pendV = true → decodeSymbol f.ctx.pendSym = .timed .high d →
    d ≠ 0 → refill Config.guardTime w f = .done n f' → Memory.lookup f'.ctx.buf w.base = some d) ∧
  ∀ (w : Window) (f f' : Fill) (n : Nat), refill Config.guardTime w f = .done n f' → f'.ctx.pendV = true →
    Memory.lookup f'.ctx.buf (w.base + w.count - 1) = some Config.guardTime ∧
      ∃ d, decodeSymbol f'.ctx.pendSym = .timed .high d ∧ d ≠ 0

/-! ## TransmitEngine: the update event -/

/-- R126, R127, R129: away from the half points, `TX_UPDATE` that loads a value other than 0 toggles the output and
opens a segment at the pin's level, and changes nothing else. -/
def Obligations.TxUpdatePlaysASlot : Prop :=
  ∀ s v, s.fatal = false → s.txt.en = true → s.txt.rd ≠ 127 → s.txt.rd ≠ 255 → s.slot s.txt.rd.toNat = v → v ≠ 0 →
    ∃ o : Level, o ≠ s.txt.outT ∧ exec .txUpdate s = .next { s with
      txt := { s.txt with arr := v, rd := s.txt.rd + 1, outT := o }
      wave := s.wave ++ [{ level := { s.txt with outT := o }.pinLevel, ticks := v }]
      resp := none }

/-- R126, R131: away from the half points, `TX_UPDATE` that loads 0 takes `AsyncTx` to `AsyncTxLast` and forces the pin
Low, and in any other state the timer runs in (in every run: `AsyncTxLast`) ends in `AsyncTxEnd` with the timer stopped;
nothing is toggled and nothing else changes. -/
def Obligations.TxUpdateZeroHandshake : Prop :=
  ∀ s, s.fatal = false → s.txt.en = true → s.txt.rd ≠ 127 → s.txt.rd ≠ 255 → s.slot s.txt.rd.toNat = 0 →
    (s.dstate = .asyncTx → exec .txUpdate s = .next { s with
      dstate := .asyncTxLast, txt := { s.txt with arr := 0, rd := s.txt.rd + 1, pin := .forcedLow }, resp := none }) ∧
    (s.dstate ≠ .asyncTx → exec .txUpdate s = .next { s with
      dstate := .asyncTxEnd, txt := { s.txt with arr := 0, rd := s.txt.rd + 1, en := false }, resp := none })

/-- R44, R126, R128: `TX_UPDATE` that reads slot 127 refills slots 0 to 127, and one that reads slot 255 refills slots
128 to 255, when the refill meets no zero duration; the other half reads as before, `TX_CTX` stays, and the event goes on to the
handshake. -/
def Obligations.TxUpdateRefillsTheConsumedHalf : Prop :=
  ∀ s (w : Window), s.fatal = false → s.txt.en = true →
    ((s.txt.rd = 127 ∧ w = .firstHalf) ∨ (s.txt.rd = 255 ∧ w = .secondHalf)) →
    (∃ n f', refill Config.guardTime w ⟨s.txc, s.src⟩ = .done n f') →
    ∃ t, exec .txUpdate s = .next t ∧ t.fatal = false ∧ t.resp = none ∧
      t.txt.arr = s.slot s.txt.rd.toNat ∧ t.txt.rd = s.txt.rd + 1 ∧
      refill Config.guardTime w ⟨s.txc, s.src⟩ = .done 0 ⟨t.txc, t.src⟩ ∧ t.txc.ctx = s.txc.ctx ∧
      (∀ k, ¬(w.base ≤ k ∧ k < w.base + w.count) → t.slot k = s.slot k) ∧
      (s.slot s.txt.rd.toNat ≠ 0 → t.dstate = s.dstate ∧ t.txt.en = true ∧ t.txt.pin = s.txt.pin ∧
        t.txt.outT = s.txt.outT.flip ∧
        t.wave = s.wave ++ [{ level := { s.txt with outT := s.txt.outT.flip }.pinLevel, ticks := s.slot s.txt.rd.toNat }]) ∧
      (s.slot s.txt.rd.toNat = 0 → t.txt.outT = s.txt.outT ∧ t.wave = s.wave ∧
        (s.dstate = .asyncTx → t.dstate = .asyncTxLast ∧ t.txt.pin = .forcedLow ∧ t.txt.en = true) ∧
        (s.dstate ≠ .asyncTx → t.dstate = .asyncTxEnd ∧ t.txt.pin = s.txt.pin ∧ t.txt.en = false)) ∧
      t.txt.dmaEn = s.txt.dmaEn ∧ t.txt.ieDma = s.txt.ieDma ∧ t.txt.ieUpd = s.txt.ieUpd ∧
      t.txAlloc = s.txAlloc ∧ t.rx = s.rx ∧ t.reg = s.reg ∧ t.lastFreqV = s.lastFreqV ∧ t.lastFreq = s.lastFreq ∧
      t.rfEn = s.rfEn ∧ t.radioMode = s.radioMode ∧ t.radioLog = s.radioLog ∧ t.log = s.log ∧
      t.edgeOut = s.edgeOut ∧ t.fcause = s.fcause ∧ t.stimuli = s.stimuli

/-- R126, R128, R172: a refill of `TX_UPDATE` that ends at a zero duration is fatal in the middle of the step: the
transfer, the toggle and what the refill wrote stay, the handshake is not done even where the value loaded was 0, and
nothing else changes. -/
def Obligations.TxUpdateZeroDurationIsFatal : Prop :=
  ∀ s (w : Window) v f', s.fatal = false → s.txt.en = true →
    ((s.txt.rd = 127 ∧ w = .firstHalf) ∨ (s.txt.rd = 255 ∧ w = .secondHalf)) → s.slot s.txt.rd.toNat = v →
    refill Config.guardTime w ⟨s.txc, s.src⟩ = .zeroDuration f' →
    (v ≠ 0 → ∃ o : Level, o ≠ s.txt.outT ∧ exec .txUpdate s = .next { s with
      txt := { s.txt with arr := v, rd := s.txt.rd + 1, outT := o }
      wave := s.wave ++ [{ level := { s.txt with outT := o }.pinLevel, ticks := v }]
      txc := f'.ctx, src := f'.src, fatal := true, fcause := .zeroDuration, resp := none }) ∧
    (v = 0 → exec .txUpdate s = .next { s with
      txt := { s.txt with arr := 0, rd := s.txt.rd + 1 }
      txc := f'.ctx, src := f'.src, fatal := true, fcause := .zeroDuration, resp := none })

/-- R131, R132, R133: two zero slots in a row, wherever in the buffer and whatever wrote them, end a transmission in two
update events: the pin is Low from the first on, and the timer is stopped by the second. At the four places where one of
the two events reads the last slot of a half, the refill of that half must meet no zero duration. That a second update
event comes after a reload of 0 is the spec's own step (R132, D11; log 15). -/
def Obligations.TwoZerosEndTheTransmission : Prop :=
  ∀ s, s.fatal = false → s.txt.en = true → s.dstate = .asyncTx →
    s.slot s.txt.rd.toNat = 0 → s.slot (s.txt.rd + 1).toNat = 0 →
    (∀ w : Window, (((s.txt.rd = 126 ∨ s.txt.rd = 127) ∧ w = .firstHalf) ∨
        ((s.txt.rd = 254 ∨ s.txt.rd = 255) ∧ w = .secondHalf)) →
      ∃ n f', refill Config.guardTime w ⟨s.txc, s.src⟩ = .done n f') →
    ∃ t u, exec .txUpdate s = .next t ∧ exec .txUpdate t = .next u ∧
      t.dstate = .asyncTxLast ∧ t.txt.pinLevel = .low ∧ t.txt.en = true ∧ t.fatal = false ∧ t.wave = s.wave ∧
      u.dstate = .asyncTxEnd ∧ u.txt.pinLevel = .low ∧ u.txt.en = false ∧ u.fatal = false ∧ u.wave = s.wave

/-! ## The test bench -/

/-- R72: `SRC_PUSH` appends its word to the script and changes nothing else; a pull takes the head, or answers `Wait` and
leaves the script empty. -/
def Obligations.ScriptIsAQueue : Prop :=
  (∀ y s, s.fatal = false →
    exec (.srcPush y) s = .next { s with src := { s.src with script := s.src.script ++ [y] }, resp := none }) ∧
  ∀ (ctx : Word) (q : SymbolSource),
    (∀ y ys, q.script = y :: ys → (q.pull ctx).1 = y ∧ (q.pull ctx).2.script = ys) ∧
    (q.script = [] → decodeSymbol (q.pull ctx).1 = .wait ∧ (q.pull ctx).2.script = [])

/-! ## Invariants -/

/-- The reset state meets every invariant: R155's "at most one engine active", by R38's values, and the other five
(R112, R27, R116, R13, and the canonical form of the buffer, which is the model's own, log 7). -/
def Obligations.ResetMeetsTheInvariant : Prop := Safety.Inv State.reset

/-- R155: every step keeps "at most one engine active", from every state that has it. -/
def Obligations.StepKeepsDriverInvariant : Prop :=
  ∀ s t, Safety.DriverInv s → step s = .next t → Safety.DriverInv t

/-- Every step keeps the canonical form of the sample buffer, and keeps every slot written while the timer runs (R38,
R45, R112). -/
def Obligations.StepKeepsBufferInvariants : Prop :=
  ∀ s t, Safety.BufferInv s → Safety.WrittenInv s → step s = .next t → Safety.BufferInv t ∧ Safety.WrittenInv t

/-- Every step keeps "a held symbol is a `High` symbol of a duration that is not 0" (R27, R123). -/
def Obligations.StepKeepsHeldSymbolHigh : Prop :=
  ∀ s t, Safety.HeldInv s → step s = .next t → Safety.HeldInv t

/-- R116: every step keeps "`OUT_T` is the level of the slot last loaded", until the first zero slot is loaded. -/
def Obligations.StepKeepsTogglePhase : Prop :=
  ∀ s t, Safety.ToggleInv s → step s = .next t → Safety.ToggleInv t

/-- R13: every step keeps "`FCAUSE` is (none) exactly while `FATAL = 0`". -/
def Obligations.StepKeepsCauseWithFatal : Prop :=
  ∀ s t, Safety.CauseInv s → step s = .next t → Safety.CauseInv t

/-! ## The machine as a whole -/

/-- R152: in every state that meets R155, every stimulus but `RESET` leaves `DSTATE` as it is or makes one of the
transitions T1 to T8, by its own trigger. -/
def Obligations.TransitionsAreExactlyThoseNamed : Prop :=
  ∀ i s t, Safety.DriverInv s → exec i s = .next t → i ≠ .reset → t.dstate ≠ s.dstate →
    s.fatal = false ∧
    ((s.dstate = .idle ∧ t.dstate = .asyncRx ∧ ∃ ctx, i = .startAsyncRx ctx) ∨
     (s.dstate = .asyncRx ∧ t.dstate = .idle ∧ i = .stopAsyncRx) ∨
     (s.dstate = .idle ∧ t.dstate = .asyncTx ∧ s.reg = .txRx ∧ ∃ ctx, i = .startAsyncTx ctx) ∨
     (s.dstate = .asyncTx ∧ t.dstate = .asyncTxLast ∧ t.txt.arr = 0 ∧ i = .txUpdate) ∨
     (s.dstate = .asyncTxLast ∧ t.dstate = .asyncTxEnd ∧ t.txt.arr = 0 ∧ i = .txUpdate) ∨
     (s.dstate.transmits = true ∧ t.dstate = .idle ∧ i = .stopAsyncTx))

/-- R34, R35, R36: the observation traces are append-only: every stimulus but `RESET` keeps what they hold. -/
def Obligations.TracesOnlyGrow : Prop :=
  ∀ i s t, exec i s = .next t → i ≠ .reset →
    s.edgeOut <+: t.edgeOut ∧ s.radioLog <+: t.radioLog ∧ s.wave <+: t.wave

/-- R14, R15: `REG` and `LAST_FREQ` are written only by `SET_FREQUENCY` and `RESET`. -/
def Obligations.OnlySetFrequencyTunes : Prop :=
  ∀ i s t, exec i s = .next t → i ≠ .reset → (∀ hz, i ≠ .setFrequency hz) →
    t.reg = s.reg ∧ t.lastFreqV = s.lastFreqV ∧ t.lastFreq = s.lastFreq

/-- R42, R49, R52: `BUF` and the accumulators are touched only by `START_ASYNC_TX`, `TX_UPDATE`, `STOP_ASYNC_TX` and
`RESET`: after any other stimulus every slot reads as before. -/
def Obligations.OnlyTheTransmitterTouchesTheBuffer : Prop :=
  ∀ i s t, exec i s = .next t → i ≠ .reset → i ≠ .txUpdate → i ≠ .stopAsyncTx → (∀ ctx, i ≠ .startAsyncTx ctx) →
    (∀ k, t.slot k = s.slot k) ∧ t.txc = s.txc

/-- R10's owners, and what the rules of the stimuli list as written (R92, R94 to R96 and R98 of the receive ones, R111,
R126, R135 and R136 of the transmit ones): the receive stimuli change nothing of the TransmitEngine, and the transmit
stimuli nothing of the CaptureEngine. -/
def Obligations.EnginesAreIsolated : Prop :=
  ∀ i s t, exec i s = .next t →
    ((∃ ctx, i = .startAsyncRx ctx) ∨ i = .stopAsyncRx ∨ (∃ n, i = .rxTick n) ∨ i = .rxFall ∨ i = .rxRise →
      t.txc = s.txc ∧ t.txt = s.txt ∧ t.txAlloc = s.txAlloc ∧ t.rfEn = s.rfEn ∧ t.log = s.log ∧ t.wave = s.wave ∧
      t.src = s.src) ∧
    ((∃ ctx, i = .startAsyncTx ctx) ∨ i = .stopAsyncTx ∨ i = .isAsyncTxComplete ∨ i = .txUpdate →
      t.rx = s.rx ∧ t.edgeOut = s.edgeOut)

/-- R134: in `AsyncTxEnd` nothing but `STOP_ASYNC_TX` and `RESET` changes the state, the carrier lines or the context,
and no symbol is pulled. -/
def Obligations.EndIsQuiescent : Prop :=
  ∀ i s t, Safety.DriverOk s → s.dstate = .asyncTxEnd → exec i s = .next t → i ≠ .reset → i ≠ .stopAsyncTx →
    t.dstate = .asyncTxEnd ∧ t.rfEn = true ∧ t.radioMode = .tx ∧ t.txt.pin = .forcedLow ∧ t.txt = s.txt ∧
    t.txc = s.txc ∧ t.src.calls = s.src.calls

/-- R191: at rest no event is enabled but `SRC_PUSH` and `RESET`: the edges, ticks and updates are ignored. -/
def Obligations.AtRestOnlyPushAndReset : Prop :=
  ∀ i s, s.atRest = true → Safety.DriverInv s →
    (∃ n, i = .rxTick n) ∨ i = .rxFall ∨ i = .rxRise ∨ i = .txUpdate →
    exec i s = .next { s with resp := none }

/-- R24, R131, R155: while `FATAL = 0`, in `AsyncTx` the pin that the radio sees is at the level `OUT_T` holds; once the
first zero slot was loaded it is driven Low, whatever the flip-flop holds; in `Idle` and `AsyncRx` it drives no level,
which the model writes `z` (log 19). In a fatal state the pin may show any level (R170), and nothing is said. -/
def Obligations.CarrierIsOffAfterTheFirstZero : Prop :=
  ∀ (k : Nat) s, s.fatal = false → Safety.DriverInv s →
    (s.dstate = .asyncTx → (s.txt.outT = .high → s.shownPinLevel k = .high) ∧
      (s.txt.outT = .low → s.shownPinLevel k = .low)) ∧
    (s.dstate = .asyncTxLast ∨ s.dstate = .asyncTxEnd → s.shownPinLevel k = .low) ∧
    (s.dstate = .idle ∨ s.dstate = .asyncRx → s.shownPinLevel k = .z)

/-- R68: a response is produced exactly by the four commands that answer, when they are neither ignored nor fatal; a
boolean one is 0 or 1. -/
def Obligations.ResponsesAreTheTable : Prop :=
  ∀ i s t, exec i s = .next t →
    (t.resp.isSome = true ↔ s.fatal = false ∧ t.fatal = false ∧
      ((∃ ctx, i = .startAsyncTx ctx) ∨ i = .isAsyncTxComplete ∨ (∃ hz, i = .setFrequency hz) ∨
        ∃ hz, i = .isTxAllowed hz)) ∧
    ((∀ hz, i ≠ .setFrequency hz) → ∀ v, t.resp = some v → v = 0 ∨ v = 1)
end

