-- ==== Sys2Proof/Laws/State.lean ====
section
/-! SUPPORT. The small lemmas of the named state updates: one per field per update. -/

namespace Sys2Proof.Laws.State

open Sys2Proof.Machine

variable (s : State) (v hz ctx : Word) (level : Bool) (d : Tick) (nbits w : Nat)

/-! ## silent -/

@[simp] theorem silent_dstate : s.silent.dstate = s.dstate := rfl
@[simp] theorem silent_fatal : s.silent.fatal = s.fatal := rfl
@[simp] theorem silent_fcause : s.silent.fcause = s.fcause := rfl
@[simp] theorem silent_reg : s.silent.reg = s.reg := rfl
@[simp] theorem silent_lastFreqV : s.silent.lastFreqV = s.lastFreqV := rfl
@[simp] theorem silent_lastFreq : s.silent.lastFreq = s.lastFreq := rfl
@[simp] theorem silent_rx : s.silent.rx = s.rx := rfl
@[simp] theorem silent_txc : s.silent.txc = s.txc := rfl
@[simp] theorem silent_txAlloc : s.silent.txAlloc = s.txAlloc := rfl
@[simp] theorem silent_txt : s.silent.txt = s.txt := rfl
@[simp] theorem silent_radioMode : s.silent.radioMode = s.radioMode := rfl
@[simp] theorem silent_rfEn : s.silent.rfEn = s.rfEn := rfl
@[simp] theorem silent_log : s.silent.log = s.log := rfl
@[simp] theorem silent_edgeOut : s.silent.edgeOut = s.edgeOut := rfl
@[simp] theorem silent_radioLog : s.silent.radioLog = s.radioLog := rfl
@[simp] theorem silent_wave : s.silent.wave = s.wave := rfl
@[simp] theorem silent_src : s.silent.src = s.src := rfl
@[simp] theorem silent_resp : s.silent.resp = none := rfl
@[simp] theorem silent_stimuli : s.silent.stimuli = s.stimuli := rfl
@[simp] theorem silent_draws : s.silent.draws = s.draws := rfl

/-! ## respond -/

@[simp] theorem respond_dstate : (s.respond v).dstate = s.dstate := rfl
@[simp] theorem respond_fatal : (s.respond v).fatal = s.fatal := rfl
@[simp] theorem respond_fcause : (s.respond v).fcause = s.fcause := rfl
@[simp] theorem respond_reg : (s.respond v).reg = s.reg := rfl
@[simp] theorem respond_lastFreqV : (s.respond v).lastFreqV = s.lastFreqV := rfl
@[simp] theorem respond_lastFreq : (s.respond v).lastFreq = s.lastFreq := rfl
@[simp] theorem respond_rx : (s.respond v).rx = s.rx := rfl
@[simp] theorem respond_txc : (s.respond v).txc = s.txc := rfl
@[simp] theorem respond_txAlloc : (s.respond v).txAlloc = s.txAlloc := rfl
@[simp] theorem respond_txt : (s.respond v).txt = s.txt := rfl
@[simp] theorem respond_radioMode : (s.respond v).radioMode = s.radioMode := rfl
@[simp] theorem respond_rfEn : (s.respond v).rfEn = s.rfEn := rfl
@[simp] theorem respond_log : (s.respond v).log = s.log := rfl
@[simp] theorem respond_edgeOut : (s.respond v).edgeOut = s.edgeOut := rfl
@[simp] theorem respond_radioLog : (s.respond v).radioLog = s.radioLog := rfl
@[simp] theorem respond_wave : (s.respond v).wave = s.wave := rfl
@[simp] theorem respond_src : (s.respond v).src = s.src := rfl
@[simp] theorem respond_resp : (s.respond v).resp = some v := rfl
@[simp] theorem respond_stimuli : (s.respond v).stimuli = s.stimuli := rfl
@[simp] theorem respond_draws : (s.respond v).draws = s.draws := rfl

/-! ## emitEdge -/

@[simp] theorem emitEdge_dstate : (s.emitEdge level d).dstate = s.dstate := rfl
@[simp] theorem emitEdge_fatal : (s.emitEdge level d).fatal = s.fatal := rfl
@[simp] theorem emitEdge_fcause : (s.emitEdge level d).fcause = s.fcause := rfl
@[simp] theorem emitEdge_reg : (s.emitEdge level d).reg = s.reg := rfl
@[simp] theorem emitEdge_lastFreqV : (s.emitEdge level d).lastFreqV = s.lastFreqV := rfl
@[simp] theorem emitEdge_lastFreq : (s.emitEdge level d).lastFreq = s.lastFreq := rfl
@[simp] theorem emitEdge_rx : (s.emitEdge level d).rx = s.rx := rfl
@[simp] theorem emitEdge_txc : (s.emitEdge level d).txc = s.txc := rfl
@[simp] theorem emitEdge_txAlloc : (s.emitEdge level d).txAlloc = s.txAlloc := rfl
@[simp] theorem emitEdge_txt : (s.emitEdge level d).txt = s.txt := rfl
@[simp] theorem emitEdge_radioMode : (s.emitEdge level d).radioMode = s.radioMode := rfl
@[simp] theorem emitEdge_rfEn : (s.emitEdge level d).rfEn = s.rfEn := rfl
@[simp] theorem emitEdge_log : (s.emitEdge level d).log = s.log := rfl
@[simp] theorem emitEdge_edgeOut : (s.emitEdge level d).edgeOut = s.edgeOut ++ [⟨s.rx.ctx, level, d⟩] := rfl
@[simp] theorem emitEdge_radioLog : (s.emitEdge level d).radioLog = s.radioLog := rfl
@[simp] theorem emitEdge_wave : (s.emitEdge level d).wave = s.wave := rfl
@[simp] theorem emitEdge_src : (s.emitEdge level d).src = s.src := rfl
@[simp] theorem emitEdge_resp : (s.emitEdge level d).resp = s.resp := rfl
@[simp] theorem emitEdge_stimuli : (s.emitEdge level d).stimuli = s.stimuli := rfl
@[simp] theorem emitEdge_draws : (s.emitEdge level d).draws = s.draws := rfl

/-! ## radioToIdle -/

@[simp] theorem radioToIdle_dstate : s.radioToIdle.dstate = s.dstate := rfl
@[simp] theorem radioToIdle_fatal : s.radioToIdle.fatal = s.fatal := rfl
@[simp] theorem radioToIdle_fcause : s.radioToIdle.fcause = s.fcause := rfl
@[simp] theorem radioToIdle_reg : s.radioToIdle.reg = s.reg := rfl
@[simp] theorem radioToIdle_lastFreqV : s.radioToIdle.lastFreqV = s.lastFreqV := rfl
@[simp] theorem radioToIdle_lastFreq : s.radioToIdle.lastFreq = s.lastFreq := rfl
@[simp] theorem radioToIdle_rx : s.radioToIdle.rx = s.rx := rfl
@[simp] theorem radioToIdle_txc : s.radioToIdle.txc = s.txc := rfl
@[simp] theorem radioToIdle_txAlloc : s.radioToIdle.txAlloc = s.txAlloc := rfl
@[simp] theorem radioToIdle_txt : s.radioToIdle.txt = s.txt := rfl
@[simp] theorem radioToIdle_radioMode : s.radioToIdle.radioMode = .idle := rfl
@[simp] theorem radioToIdle_rfEn : s.radioToIdle.rfEn = s.rfEn := rfl
@[simp] theorem radioToIdle_log : s.radioToIdle.log = s.log := rfl
@[simp] theorem radioToIdle_edgeOut : s.radioToIdle.edgeOut = s.edgeOut := rfl
@[simp] theorem radioToIdle_radioLog : s.radioToIdle.radioLog = s.radioLog ++ [.switchToIdle] := rfl
@[simp] theorem radioToIdle_wave : s.radioToIdle.wave = s.wave := rfl
@[simp] theorem radioToIdle_src : s.radioToIdle.src = s.src := rfl
@[simp] theorem radioToIdle_resp : s.radioToIdle.resp = s.resp := rfl
@[simp] theorem radioToIdle_stimuli : s.radioToIdle.stimuli = s.stimuli := rfl
@[simp] theorem radioToIdle_draws : s.radioToIdle.draws = s.draws := rfl

/-! ## radioToRx -/

@[simp] theorem radioToRx_dstate : s.radioToRx.dstate = s.dstate := rfl
@[simp] theorem radioToRx_fatal : s.radioToRx.fatal = s.fatal := rfl
@[simp] theorem radioToRx_fcause : s.radioToRx.fcause = s.fcause := rfl
@[simp] theorem radioToRx_reg : s.radioToRx.reg = s.reg := rfl
@[simp] theorem radioToRx_lastFreqV : s.radioToRx.lastFreqV = s.lastFreqV := rfl
@[simp] theorem radioToRx_lastFreq : s.radioToRx.lastFreq = s.lastFreq := rfl
@[simp] theorem radioToRx_rx : s.radioToRx.rx = s.rx := rfl
@[simp] theorem radioToRx_txc : s.radioToRx.txc = s.txc := rfl
@[simp] theorem radioToRx_txAlloc : s.radioToRx.txAlloc = s.txAlloc := rfl
@[simp] theorem radioToRx_txt : s.radioToRx.txt = s.txt := rfl
@[simp] theorem radioToRx_radioMode : s.radioToRx.radioMode = .rx := rfl
@[simp] theorem radioToRx_rfEn : s.radioToRx.rfEn = s.rfEn := rfl
@[simp] theorem radioToRx_log : s.radioToRx.log = s.log := rfl
@[simp] theorem radioToRx_edgeOut : s.radioToRx.edgeOut = s.edgeOut := rfl
@[simp] theorem radioToRx_radioLog : s.radioToRx.radioLog = s.radioLog ++ [.switchToRx] := rfl
@[simp] theorem radioToRx_wave : s.radioToRx.wave = s.wave := rfl
@[simp] theorem radioToRx_src : s.radioToRx.src = s.src := rfl
@[simp] theorem radioToRx_resp : s.radioToRx.resp = s.resp := rfl
@[simp] theorem radioToRx_stimuli : s.radioToRx.stimuli = s.stimuli := rfl
@[simp] theorem radioToRx_draws : s.radioToRx.draws = s.draws := rfl

/-! ## radioToTx -/

@[simp] theorem radioToTx_dstate : s.radioToTx.dstate = s.dstate := rfl
@[simp] theorem radioToTx_fatal : s.radioToTx.fatal = s.fatal := rfl
@[simp] theorem radioToTx_fcause : s.radioToTx.fcause = s.fcause := rfl
@[simp] theorem radioToTx_reg : s.radioToTx.reg = s.reg := rfl
@[simp] theorem radioToTx_lastFreqV : s.radioToTx.lastFreqV = s.lastFreqV := rfl
@[simp] theorem radioToTx_lastFreq : s.radioToTx.lastFreq = s.lastFreq := rfl
@[simp] theorem radioToTx_rx : s.radioToTx.rx = s.rx := rfl
@[simp] theorem radioToTx_txc : s.radioToTx.txc = s.txc := rfl
@[simp] theorem radioToTx_txAlloc : s.radioToTx.txAlloc = s.txAlloc := rfl
@[simp] theorem radioToTx_txt : s.radioToTx.txt = s.txt := rfl
@[simp] theorem radioToTx_radioMode : s.radioToTx.radioMode = .tx := rfl
@[simp] theorem radioToTx_rfEn : s.radioToTx.rfEn = s.rfEn := rfl
@[simp] theorem radioToTx_log : s.radioToTx.log = s.log := rfl
@[simp] theorem radioToTx_edgeOut : s.radioToTx.edgeOut = s.edgeOut := rfl
@[simp] theorem radioToTx_radioLog : s.radioToTx.radioLog = s.radioLog ++ [.switchToTx] := rfl
@[simp] theorem radioToTx_wave : s.radioToTx.wave = s.wave := rfl
@[simp] theorem radioToTx_src : s.radioToTx.src = s.src := rfl
@[simp] theorem radioToTx_resp : s.radioToTx.resp = s.resp := rfl
@[simp] theorem radioToTx_stimuli : s.radioToTx.stimuli = s.stimuli := rfl
@[simp] theorem radioToTx_draws : s.radioToTx.draws = s.draws := rfl

/-! ## radioSetFrequency -/

@[simp] theorem radioSetFrequency_dstate : (s.radioSetFrequency hz).dstate = s.dstate := rfl
@[simp] theorem radioSetFrequency_fatal : (s.radioSetFrequency hz).fatal = s.fatal := rfl
@[simp] theorem radioSetFrequency_fcause : (s.radioSetFrequency hz).fcause = s.fcause := rfl
@[simp] theorem radioSetFrequency_reg : (s.radioSetFrequency hz).reg = s.reg := rfl
@[simp] theorem radioSetFrequency_lastFreqV : (s.radioSetFrequency hz).lastFreqV = s.lastFreqV := rfl
@[simp] theorem radioSetFrequency_lastFreq : (s.radioSetFrequency hz).lastFreq = s.lastFreq := rfl
@[simp] theorem radioSetFrequency_rx : (s.radioSetFrequency hz).rx = s.rx := rfl
@[simp] theorem radioSetFrequency_txc : (s.radioSetFrequency hz).txc = s.txc := rfl
@[simp] theorem radioSetFrequency_txAlloc : (s.radioSetFrequency hz).txAlloc = s.txAlloc := rfl
@[simp] theorem radioSetFrequency_txt : (s.radioSetFrequency hz).txt = s.txt := rfl
@[simp] theorem radioSetFrequency_radioMode : (s.radioSetFrequency hz).radioMode = s.radioMode := rfl
@[simp] theorem radioSetFrequency_rfEn : (s.radioSetFrequency hz).rfEn = s.rfEn := rfl
@[simp] theorem radioSetFrequency_log : (s.radioSetFrequency hz).log = s.log := rfl
@[simp] theorem radioSetFrequency_edgeOut : (s.radioSetFrequency hz).edgeOut = s.edgeOut := rfl
@[simp] theorem radioSetFrequency_radioLog : (s.radioSetFrequency hz).radioLog = s.radioLog ++ [.setFrequency hz] := rfl
@[simp] theorem radioSetFrequency_wave : (s.radioSetFrequency hz).wave = s.wave := rfl
@[simp] theorem radioSetFrequency_src : (s.radioSetFrequency hz).src = s.src := rfl
@[simp] theorem radioSetFrequency_resp : (s.radioSetFrequency hz).resp = s.resp := rfl
@[simp] theorem radioSetFrequency_stimuli : (s.radioSetFrequency hz).stimuli = s.stimuli := rfl
@[simp] theorem radioSetFrequency_draws : (s.radioSetFrequency hz).draws = s.draws := rfl

/-! ## withFetchWord -/

@[simp] theorem withFetchWord_dstate : (s.withFetchWord nbits w).dstate = s.dstate := rfl
@[simp] theorem withFetchWord_fatal : (s.withFetchWord nbits w).fatal = s.fatal := rfl
@[simp] theorem withFetchWord_fcause : (s.withFetchWord nbits w).fcause = s.fcause := rfl
@[simp] theorem withFetchWord_reg : (s.withFetchWord nbits w).reg = s.reg := rfl
@[simp] theorem withFetchWord_lastFreqV : (s.withFetchWord nbits w).lastFreqV = s.lastFreqV := rfl
@[simp] theorem withFetchWord_lastFreq : (s.withFetchWord nbits w).lastFreq = s.lastFreq := rfl
@[simp] theorem withFetchWord_rx : (s.withFetchWord nbits w).rx = s.rx := rfl
@[simp] theorem withFetchWord_txc : (s.withFetchWord nbits w).txc = s.txc := rfl
@[simp] theorem withFetchWord_txAlloc : (s.withFetchWord nbits w).txAlloc = s.txAlloc := rfl
@[simp] theorem withFetchWord_txt : (s.withFetchWord nbits w).txt = s.txt := rfl
@[simp] theorem withFetchWord_radioMode : (s.withFetchWord nbits w).radioMode = s.radioMode := rfl
@[simp] theorem withFetchWord_rfEn : (s.withFetchWord nbits w).rfEn = s.rfEn := rfl
@[simp] theorem withFetchWord_log : (s.withFetchWord nbits w).log = s.log := rfl
@[simp] theorem withFetchWord_edgeOut : (s.withFetchWord nbits w).edgeOut = s.edgeOut := rfl
@[simp] theorem withFetchWord_radioLog : (s.withFetchWord nbits w).radioLog = s.radioLog := rfl
@[simp] theorem withFetchWord_wave : (s.withFetchWord nbits w).wave = s.wave := rfl
@[simp] theorem withFetchWord_src : (s.withFetchWord nbits w).src = s.src := rfl
@[simp] theorem withFetchWord_resp : (s.withFetchWord nbits w).resp = s.resp := rfl
@[simp] theorem withFetchWord_stimuli : (s.withFetchWord nbits w).stimuli = BitVec.ofNat 40 (tableWord nbits w) :: s.stimuli := rfl
@[simp] theorem withFetchWord_draws : (s.withFetchWord nbits w).draws = s.draws := rfl

/-! ## allocateTx -/

@[simp] theorem allocateTx_dstate : (allocateTx ctx s).dstate = .asyncTx := rfl
@[simp] theorem allocateTx_fatal : (allocateTx ctx s).fatal = s.fatal := rfl
@[simp] theorem allocateTx_fcause : (allocateTx ctx s).fcause = s.fcause := rfl
@[simp] theorem allocateTx_reg : (allocateTx ctx s).reg = s.reg := rfl
@[simp] theorem allocateTx_lastFreqV : (allocateTx ctx s).lastFreqV = s.lastFreqV := rfl
@[simp] theorem allocateTx_lastFreq : (allocateTx ctx s).lastFreq = s.lastFreq := rfl
@[simp] theorem allocateTx_rx : (allocateTx ctx s).rx = s.rx := rfl
@[simp] theorem allocateTx_txc : (allocateTx ctx s).txc = { s.txc with ctx := ctx, dutyH := 0, dutyL := 0, pendV := false } := rfl
@[simp] theorem allocateTx_txAlloc : (allocateTx ctx s).txAlloc = true := rfl
@[simp] theorem allocateTx_txt : (allocateTx ctx s).txt = s.txt := rfl
@[simp] theorem allocateTx_radioMode : (allocateTx ctx s).radioMode = s.radioMode := rfl
@[simp] theorem allocateTx_rfEn : (allocateTx ctx s).rfEn = s.rfEn := rfl
@[simp] theorem allocateTx_log : (allocateTx ctx s).log = s.log := rfl
@[simp] theorem allocateTx_edgeOut : (allocateTx ctx s).edgeOut = s.edgeOut := rfl
@[simp] theorem allocateTx_radioLog : (allocateTx ctx s).radioLog = s.radioLog := rfl
@[simp] theorem allocateTx_wave : (allocateTx ctx s).wave = s.wave := rfl
@[simp] theorem allocateTx_src : (allocateTx ctx s).src = s.src := rfl
@[simp] theorem allocateTx_resp : (allocateTx ctx s).resp = s.resp := rfl
@[simp] theorem allocateTx_stimuli : (allocateTx ctx s).stimuli = s.stimuli := rfl
@[simp] theorem allocateTx_draws : (allocateTx ctx s).draws = s.draws := rfl

/-! ## armTx -/

@[simp] theorem armTx_dstate : (armTx s).dstate = s.dstate := rfl
@[simp] theorem armTx_fatal : (armTx s).fatal = s.fatal := rfl
@[simp] theorem armTx_fcause : (armTx s).fcause = s.fcause := rfl
@[simp] theorem armTx_reg : (armTx s).reg = s.reg := rfl
@[simp] theorem armTx_lastFreqV : (armTx s).lastFreqV = s.lastFreqV := rfl
@[simp] theorem armTx_lastFreq : (armTx s).lastFreq = s.lastFreq := rfl
@[simp] theorem armTx_rx : (armTx s).rx = s.rx := rfl
@[simp] theorem armTx_txc : (armTx s).txc = s.txc := rfl
@[simp] theorem armTx_txAlloc : (armTx s).txAlloc = s.txAlloc := rfl
@[simp] theorem armTx_txt : (armTx s).txt = 
      { rd := 0, arr := Config.freeTick .arrAtStart s.draws, en := true, dmaEn := true, outT := .low, pin := .toggle,
        ieDma := true, ieUpd := true } := rfl
@[simp] theorem armTx_radioMode : (armTx s).radioMode = .tx := rfl
@[simp] theorem armTx_rfEn : (armTx s).rfEn = true := rfl
@[simp] theorem armTx_log : (armTx s).log = s.log := rfl
@[simp] theorem armTx_edgeOut : (armTx s).edgeOut = s.edgeOut := rfl
@[simp] theorem armTx_radioLog : (armTx s).radioLog = s.radioLog ++ [.switchToTx] := rfl
@[simp] theorem armTx_wave : (armTx s).wave = s.wave := rfl
@[simp] theorem armTx_src : (armTx s).src = s.src := rfl
@[simp] theorem armTx_resp : (armTx s).resp = s.resp := rfl
@[simp] theorem armTx_stimuli : (armTx s).stimuli = s.stimuli := rfl
@[simp] theorem armTx_draws : (armTx s).draws = s.draws := rfl

/-! ## dmaTransfer -/

@[simp] theorem dmaTransfer_dstate : (dmaTransfer s).dstate = s.dstate := rfl
@[simp] theorem dmaTransfer_fatal : (dmaTransfer s).fatal = s.fatal := rfl
@[simp] theorem dmaTransfer_fcause : (dmaTransfer s).fcause = s.fcause := rfl
@[simp] theorem dmaTransfer_reg : (dmaTransfer s).reg = s.reg := rfl
@[simp] theorem dmaTransfer_lastFreqV : (dmaTransfer s).lastFreqV = s.lastFreqV := rfl
@[simp] theorem dmaTransfer_lastFreq : (dmaTransfer s).lastFreq = s.lastFreq := rfl
@[simp] theorem dmaTransfer_rx : (dmaTransfer s).rx = s.rx := rfl
@[simp] theorem dmaTransfer_txc : (dmaTransfer s).txc = s.txc := rfl
@[simp] theorem dmaTransfer_txAlloc : (dmaTransfer s).txAlloc = s.txAlloc := rfl
@[simp] theorem dmaTransfer_txt : (dmaTransfer s).txt = { s.txt with arr := s.slot s.txt.rd.toNat, rd := s.txt.rd + 1 } := rfl
@[simp] theorem dmaTransfer_radioMode : (dmaTransfer s).radioMode = s.radioMode := rfl
@[simp] theorem dmaTransfer_rfEn : (dmaTransfer s).rfEn = s.rfEn := rfl
@[simp] theorem dmaTransfer_log : (dmaTransfer s).log = s.log := rfl
@[simp] theorem dmaTransfer_edgeOut : (dmaTransfer s).edgeOut = s.edgeOut := rfl
@[simp] theorem dmaTransfer_radioLog : (dmaTransfer s).radioLog = s.radioLog := rfl
@[simp] theorem dmaTransfer_wave : (dmaTransfer s).wave = s.wave := rfl
@[simp] theorem dmaTransfer_src : (dmaTransfer s).src = s.src := rfl
@[simp] theorem dmaTransfer_resp : (dmaTransfer s).resp = s.resp := rfl
@[simp] theorem dmaTransfer_stimuli : (dmaTransfer s).stimuli = s.stimuli := rfl
@[simp] theorem dmaTransfer_draws : (dmaTransfer s).draws = s.draws := rfl

/-! ## raiseFatal -/

variable (c : FatalCause)

theorem raiseFatal_live (h : s.fatal = false) : s.raiseFatal c = { s with fatal := true, fcause := c } := by
  simp [State.raiseFatal, h]

theorem raiseFatal_dead (h : s.fatal = true) : s.raiseFatal c = s := by
  simp [State.raiseFatal, h]

@[simp] theorem raiseFatal_fatal : (s.raiseFatal c).fatal = true := by
  cases h : s.fatal <;> simp [State.raiseFatal, h]

@[simp] theorem raiseFatal_dstate : (s.raiseFatal c).dstate = s.dstate := by
  cases h : s.fatal <;> simp [State.raiseFatal, h]

@[simp] theorem raiseFatal_reg : (s.raiseFatal c).reg = s.reg := by
  cases h : s.fatal <;> simp [State.raiseFatal, h]

@[simp] theorem raiseFatal_lastFreqV : (s.raiseFatal c).lastFreqV = s.lastFreqV := by
  cases h : s.fatal <;> simp [State.raiseFatal, h]

@[simp] theorem raiseFatal_lastFreq : (s.raiseFatal c).lastFreq = s.lastFreq := by
  cases h : s.fatal <;> simp [State.raiseFatal, h]

@[simp] theorem raiseFatal_rx : (s.raiseFatal c).rx = s.rx := by
  cases h : s.fatal <;> simp [State.raiseFatal, h]

@[simp] theorem raiseFatal_txc : (s.raiseFatal c).txc = s.txc := by
  cases h : s.fatal <;> simp [State.raiseFatal, h]

@[simp] theorem raiseFatal_txAlloc : (s.raiseFatal c).txAlloc = s.txAlloc := by
  cases h : s.fatal <;> simp [State.raiseFatal, h]

@[simp] theorem raiseFatal_txt : (s.raiseFatal c).txt = s.txt := by
  cases h : s.fatal <;> simp [State.raiseFatal, h]

@[simp] theorem raiseFatal_radioMode : (s.raiseFatal c).radioMode = s.radioMode := by
  cases h : s.fatal <;> simp [State.raiseFatal, h]

@[simp] theorem raiseFatal_rfEn : (s.raiseFatal c).rfEn = s.rfEn := by
  cases h : s.fatal <;> simp [State.raiseFatal, h]

@[simp] theorem raiseFatal_log : (s.raiseFatal c).log = s.log := by
  cases h : s.fatal <;> simp [State.raiseFatal, h]

@[simp] theorem raiseFatal_edgeOut : (s.raiseFatal c).edgeOut = s.edgeOut := by
  cases h : s.fatal <;> simp [State.raiseFatal, h]

@[simp] theorem raiseFatal_radioLog : (s.raiseFatal c).radioLog = s.radioLog := by
  cases h : s.fatal <;> simp [State.raiseFatal, h]

@[simp] theorem raiseFatal_wave : (s.raiseFatal c).wave = s.wave := by
  cases h : s.fatal <;> simp [State.raiseFatal, h]

@[simp] theorem raiseFatal_src : (s.raiseFatal c).src = s.src := by
  cases h : s.fatal <;> simp [State.raiseFatal, h]

@[simp] theorem raiseFatal_resp : (s.raiseFatal c).resp = s.resp := by
  cases h : s.fatal <;> simp [State.raiseFatal, h]

@[simp] theorem raiseFatal_stimuli : (s.raiseFatal c).stimuli = s.stimuli := by
  cases h : s.fatal <;> simp [State.raiseFatal, h]

@[simp] theorem raiseFatal_draws : (s.raiseFatal c).draws = s.draws := by
  cases h : s.fatal <;> simp [State.raiseFatal, h]

/-! ## toggleOutput -/

@[simp] theorem toggleOutput_dstate : (toggleOutput s).dstate = s.dstate := by
  unfold toggleOutput
  split <;> rfl

@[simp] theorem toggleOutput_fatal : (toggleOutput s).fatal = s.fatal := by
  unfold toggleOutput
  split <;> rfl

@[simp] theorem toggleOutput_fcause : (toggleOutput s).fcause = s.fcause := by
  unfold toggleOutput
  split <;> rfl

@[simp] theorem toggleOutput_reg : (toggleOutput s).reg = s.reg := by
  unfold toggleOutput
  split <;> rfl

@[simp] theorem toggleOutput_lastFreqV : (toggleOutput s).lastFreqV = s.lastFreqV := by
  unfold toggleOutput
  split <;> rfl

@[simp] theorem toggleOutput_lastFreq : (toggleOutput s).lastFreq = s.lastFreq := by
  unfold toggleOutput
  split <;> rfl

@[simp] theorem toggleOutput_rx : (toggleOutput s).rx = s.rx := by
  unfold toggleOutput
  split <;> rfl

@[simp] theorem toggleOutput_txc : (toggleOutput s).txc = s.txc := by
  unfold toggleOutput
  split <;> rfl

@[simp] theorem toggleOutput_txAlloc : (toggleOutput s).txAlloc = s.txAlloc := by
  unfold toggleOutput
  split <;> rfl

@[simp] theorem toggleOutput_radioMode : (toggleOutput s).radioMode = s.radioMode := by
  unfold toggleOutput
  split <;> rfl

@[simp] theorem toggleOutput_rfEn : (toggleOutput s).rfEn = s.rfEn := by
  unfold toggleOutput
  split <;> rfl

@[simp] theorem toggleOutput_log : (toggleOutput s).log = s.log := by
  unfold toggleOutput
  split <;> rfl

@[simp] theorem toggleOutput_edgeOut : (toggleOutput s).edgeOut = s.edgeOut := by
  unfold toggleOutput
  split <;> rfl

@[simp] theorem toggleOutput_radioLog : (toggleOutput s).radioLog = s.radioLog := by
  unfold toggleOutput
  split <;> rfl

@[simp] theorem toggleOutput_src : (toggleOutput s).src = s.src := by
  unfold toggleOutput
  split <;> rfl

@[simp] theorem toggleOutput_resp : (toggleOutput s).resp = s.resp := by
  unfold toggleOutput
  split <;> rfl

@[simp] theorem toggleOutput_stimuli : (toggleOutput s).stimuli = s.stimuli := by
  unfold toggleOutput
  split <;> rfl

@[simp] theorem toggleOutput_draws : (toggleOutput s).draws = s.draws := by
  unfold toggleOutput
  split <;> rfl

/-! ## updateHandler -/

@[simp] theorem updateHandler_fatal : (updateHandler s).fatal = s.fatal := by
  unfold updateHandler
  split
  · split <;> rfl
  · rfl

@[simp] theorem updateHandler_fcause : (updateHandler s).fcause = s.fcause := by
  unfold updateHandler
  split
  · split <;> rfl
  · rfl

@[simp] theorem updateHandler_reg : (updateHandler s).reg = s.reg := by
  unfold updateHandler
  split
  · split <;> rfl
  · rfl

@[simp] theorem updateHandler_lastFreqV : (updateHandler s).lastFreqV = s.lastFreqV := by
  unfold updateHandler
  split
  · split <;> rfl
  · rfl

@[simp] theorem updateHandler_lastFreq : (updateHandler s).lastFreq = s.lastFreq := by
  unfold updateHandler
  split
  · split <;> rfl
  · rfl

@[simp] theorem updateHandler_rx : (updateHandler s).rx = s.rx := by
  unfold updateHandler
  split
  · split <;> rfl
  · rfl

@[simp] theorem updateHandler_txc : (updateHandler s).txc = s.txc := by
  unfold updateHandler
  split
  · split <;> rfl
  · rfl

@[simp] theorem updateHandler_txAlloc : (updateHandler s).txAlloc = s.txAlloc := by
  unfold updateHandler
  split
  · split <;> rfl
  · rfl

@[simp] theorem updateHandler_radioMode : (updateHandler s).radioMode = s.radioMode := by
  unfold updateHandler
  split
  · split <;> rfl
  · rfl

@[simp] theorem updateHandler_rfEn : (updateHandler s).rfEn = s.rfEn := by
  unfold updateHandler
  split
  · split <;> rfl
  · rfl

@[simp] theorem updateHandler_log : (updateHandler s).log = s.log := by
  unfold updateHandler
  split
  · split <;> rfl
  · rfl

@[simp] theorem updateHandler_edgeOut : (updateHandler s).edgeOut = s.edgeOut := by
  unfold updateHandler
  split
  · split <;> rfl
  · rfl

@[simp] theorem updateHandler_radioLog : (updateHandler s).radioLog = s.radioLog := by
  unfold updateHandler
  split
  · split <;> rfl
  · rfl

@[simp] theorem updateHandler_wave : (updateHandler s).wave = s.wave := by
  unfold updateHandler
  split
  · split <;> rfl
  · rfl

@[simp] theorem updateHandler_src : (updateHandler s).src = s.src := by
  unfold updateHandler
  split
  · split <;> rfl
  · rfl

@[simp] theorem updateHandler_resp : (updateHandler s).resp = s.resp := by
  unfold updateHandler
  split
  · split <;> rfl
  · rfl

@[simp] theorem updateHandler_stimuli : (updateHandler s).stimuli = s.stimuli := by
  unfold updateHandler
  split
  · split <;> rfl
  · rfl

@[simp] theorem updateHandler_draws : (updateHandler s).draws = s.draws := by
  unfold updateHandler
  split
  · split <;> rfl
  · rfl

/-! ## whenLive and whenEnabled -/

/-- While `FATAL = 1` a stimulus is ignored (R171). -/
theorem whenLive_dead {s : State} (f : State → State) (h : s.fatal = true) : whenLive s f = s.silent := by
  simp [whenLive, h]

theorem whenLive_live {s : State} (f : State → State) (h : s.fatal = false) : whenLive s f = f s.silent := by
  simp [whenLive, h]

theorem whenEnabled_true {s : State} {g : Bool} (f : State → State) (h : s.fatal = false) (hg : g = true) :
    whenEnabled g s f = f s.silent := by
  simp [whenEnabled, whenLive, h, hg]

/-- An event whose guard is false, or that comes while `FATAL = 1`, is ignored (R70, R171). -/
theorem whenEnabled_ignored {s : State} {g : Bool} (f : State → State) (h : s.fatal = true ∨ g = false) :
    whenEnabled g s f = s.silent := by
  cases hs : s.fatal
  · simp [whenEnabled, whenLive, hs, h.resolve_left (by simp [hs])]
  · simp [whenEnabled, whenLive, hs]

theorem whenEnabled_cases (s : State) (g : Bool) (f : State → State) :
    ((s.fatal = true ∨ g = false) ∧ whenEnabled g s f = s.silent) ∨
      (s.fatal = false ∧ g = true ∧ whenEnabled g s f = f s.silent) := by
  cases hs : s.fatal <;> cases hg : g <;> simp [whenEnabled, whenLive, hs]

theorem whenLive_cases (s : State) (f : State → State) :
    (s.fatal = true ∧ whenLive s f = s.silent) ∨ (s.fatal = false ∧ whenLive s f = f s.silent) := by
  cases hs : s.fatal <;> simp [whenLive, hs]

end Sys2Proof.Laws.State
end

