-- ==== Sys2Proof/Laws/Capture.lean ====
section
/-! SUPPORT. What the two commands of the CaptureEngine can do, said once each (spec/41_capture_engine.md R92, R98). -/

namespace Sys2Proof.Laws.Capture

open Sys2Proof.Machine
open Sys2Proof.Laws.State

/-- What `START_ASYNC_RX` can do (R92, R154, R171). -/
theorem startAsyncRx_cases (ctx : Word) (s : State) :
    (s.fatal = true ∧ startAsyncRx ctx s = s.silent) ∨
    (s.fatal = false ∧ s.dstate ≠ .idle ∧ startAsyncRx ctx s = s.silent.raiseFatal .startRxBadState) ∨
    (s.fatal = false ∧ s.dstate = .idle ∧ startAsyncRx ctx s = State.radioToRx
        { s.silent with
          dstate := .asyncRx
          rx := { en := true, cnt := 0, ccrA := 0, ccrB := 0, delta := 0, ctx := ctx, pin := .capture, ieCc := true } }) := by
  cases hf : s.fatal
  · by_cases hd : s.dstate = .idle
    · exact .inr (.inr ⟨rfl, hd, by simp [startAsyncRx, whenLive, hf, hd]⟩)
    · refine .inr (.inl ⟨rfl, hd, ?_⟩)
      cases h : s.dstate <;> simp_all [startAsyncRx, whenLive]
  · exact .inl ⟨rfl, by simp [startAsyncRx, whenLive, hf]⟩

/-- What `STOP_ASYNC_RX` can do (R98, R154, R171). -/
theorem stopAsyncRx_cases (s : State) :
    (s.fatal = true ∧ stopAsyncRx s = s.silent) ∨
    (s.fatal = false ∧ s.dstate ≠ .asyncRx ∧ stopAsyncRx s = s.silent.raiseFatal .stopRxBadState) ∨
    (s.fatal = false ∧ s.dstate = .asyncRx ∧ stopAsyncRx s = { s.silent.radioToIdle with
        rx := { s.rx with en := false, ieCc := false, pin := .inert }
        dstate := .idle }) := by
  cases hf : s.fatal
  · by_cases hd : s.dstate = .asyncRx
    · exact .inr (.inr ⟨rfl, hd, by simp [stopAsyncRx, whenLive, hf, hd]⟩)
    · refine .inr (.inl ⟨rfl, hd, ?_⟩)
      cases h : s.dstate <;> simp_all [stopAsyncRx, whenLive]
  · exact .inl ⟨rfl, by simp [stopAsyncRx, whenLive, hf]⟩

end Sys2Proof.Laws.Capture
end

