-- ==== Sys2Proof/Laws/Encoding.lean ====
section
/-! SUPPORT. The two fields of a stimulus word (spec/30_encoding.md R60). -/

namespace Sys2Proof.Laws.Encoding

/-- The `op` of a word built from its fields. -/
theorem opOf_append (a : BitVec 8) (b : BitVec 32) : opOf (a ++ b) = a := by
  ext i h
  have e := BitVec.getLsbD_append (x := a) (y := b) (i := 32 + i)
  simpa [opOf] using e.trans (by simp [BitVec.getLsbD_eq_getElem h])

/-- The `arg` of a word built from its fields. -/
theorem argOf_append (a : BitVec 8) (b : BitVec 32) : argOf (a ++ b) = b := by
  ext i h
  have e := BitVec.getLsbD_append (x := a) (y := b) (i := i)
  simpa [argOf] using e.trans (by simp [h])

end Sys2Proof.Laws.Encoding
end

