-- ==== Sys2Proof/Laws/Memory.lean ====
section
/-! SUPPORT. The laws of the sample buffer: a read after a write, the slots a write and a zero fill leave alone, and
that every memory operation keeps the canonical form `Memory.wf`. -/

namespace Sys2Proof.Laws.Memory

open Sys2Proof.Machine

theorem lookup_nil (k : Nat) : Memory.lookup [] k = none := rfl

theorem lookup_cons (a : Nat) (v : Tick) (m : Memory) (k : Nat) :
    Memory.lookup ((a, v) :: m) k = if a = k then some v else Memory.lookup m k := by
  by_cases h : a = k
  · subst h
    simp [Memory.lookup]
  · have hb : Nat.beq a k = false := by
      cases hb : Nat.beq a k
      · rfl
      · exact absurd (Nat.eq_of_beq_eq_true hb) h
    simp [Memory.lookup, hb, h]

theorem write_nil (k : Nat) (v : Tick) : Memory.write [] k v = [(k, v)] := rfl

theorem write_cons (a : Nat) (w : Tick) (m : Memory) (k : Nat) (v : Tick) :
    Memory.write ((a, w) :: m) k v =
      if k < a then (k, v) :: (a, w) :: m else if a = k then (k, v) :: m else (a, w) :: Memory.write m k v := by
  have hlt : Nat.blt k a = decide (k < a) := by
    cases hb : Nat.blt k a
    · have h : ¬k < a := fun h => by simp [Nat.blt, Nat.ble_eq_true_of_le h] at hb
      simp [h]
    · have h : k < a := Nat.le_of_ble_eq_true hb
      simp [h]
  have heq : Nat.beq a k = decide (a = k) := by
    cases hb : Nat.beq a k
    · have h : a ≠ k := fun h => by
        subst h
        simp at hb
      simp [h]
    · simp [Nat.eq_of_beq_eq_true hb]
  rw [Memory.write]
  simp only [hlt, heq]
  by_cases h1 : k < a
  · simp [h1]
  · by_cases h2 : a = k <;> simp [h1, h2]

/-- In a canonical memory whose slots all lie above `k`, slot `k` is not listed. -/
theorem lookup_of_forall_lt {m : Memory} {k : Nat} (h : ∀ c ∈ m, k < c.1) : Memory.lookup m k = none := by
  induction m with
  | nil => rfl
  | cons c m ih =>
    obtain ⟨a, v⟩ := c
    have hk : a ≠ k := by have := h (a, v) (by simp); simp at this; omega
    rw [lookup_cons, if_neg hk]
    exact ih fun c hc => h c (by simp [hc])

/-- A read after a write to the same slot gives the value written. -/
@[simp] theorem lookup_write_same (m : Memory) (k : Nat) (v : Tick) :
    Memory.lookup (Memory.write m k v) k = some v := by
  induction m with
  | nil => simp [write_nil, lookup_cons]
  | cons c m ih =>
    obtain ⟨a, w⟩ := c
    rw [write_cons]
    split
    · simp [lookup_cons]
    · split
      · simp [lookup_cons]
      · rename_i h
        simp [lookup_cons, h, ih]

/-- A write leaves every other slot alone (R49). -/
theorem lookup_write_other (m : Memory) {k j : Nat} (v : Tick) (h : j ≠ k) :
    Memory.lookup (Memory.write m k v) j = Memory.lookup m j := by
  induction m with
  | nil => simp [write_nil, lookup_cons, lookup_nil, Ne.symm h]
  | cons c m ih =>
    obtain ⟨a, w⟩ := c
    rw [write_cons]
    split
    · simp [lookup_cons, Ne.symm h]
    · split
      · rename_i _ hak
        subst hak
        simp [lookup_cons, Ne.symm h]
      · simp [lookup_cons, ih]

theorem lookup_write (m : Memory) (k j : Nat) (v : Tick) :
    Memory.lookup (Memory.write m k v) j = if j = k then some v else Memory.lookup m j := by
  split
  · subst_vars
    simp
  · exact lookup_write_other m v (by assumption)

theorem mem_write {m : Memory} {k : Nat} {v : Tick} {c : Nat × Tick} (h : c ∈ Memory.write m k v) :
    c.1 = k ∨ c ∈ m := by
  induction m with
  | nil =>
    rw [write_nil] at h
    simp at h
    exact .inl (by simp [h])
  | cons d m ih =>
    obtain ⟨a, w⟩ := d
    rw [write_cons] at h
    split at h
    · simp at h
      rcases h with h | h | h
      · exact .inl (by simp [h])
      · exact .inr (by simp [h])
      · exact .inr (by simp [h])
    · split at h
      · simp at h
        rcases h with h | h
        · exact .inl (by simp [h])
        · exact .inr (by simp [h])
      · simp at h
        rcases h with h | h
        · exact .inr (by simp [h])
        · rcases ih h with h | h
          · exact .inl h
          · exact .inr (by simp [h])

theorem pairwise_write {m : Memory} (k : Nat) (v : Tick) (h : m.Pairwise fun a b => a.1 < b.1) :
    (Memory.write m k v).Pairwise fun a b => a.1 < b.1 := by
  induction m with
  | nil => simp [write_nil]
  | cons c m ih =>
    obtain ⟨a, w⟩ := c
    rw [List.pairwise_cons] at h
    rw [write_cons]
    split
    · rename_i hk
      refine List.pairwise_cons.2 ⟨?_, List.pairwise_cons.2 h⟩
      intro d hd
      simp at hd
      rcases hd with hd | hd
      · simp [hd, hk]
      · have := h.1 d hd
        simp at this ⊢
        omega
    · split
      · rename_i hk
        subst hk
        exact List.pairwise_cons.2 h
      · refine List.pairwise_cons.2 ⟨?_, ih h.2⟩
        intro d hd
        rcases mem_write hd with hd | hd
        · simp [hd]
          omega
        · exact h.1 d hd

/-- A write of a slot of the buffer keeps the canonical form. -/
theorem wf_write {m : Memory} {k : Nat} (v : Tick) (hk : k < Config.bufCap) (h : Memory.wf m) :
    Memory.wf (Memory.write m k v) := by
  refine ⟨pairwise_write k v h.1, ?_⟩
  intro c hc
  rcases mem_write hc with hc | hc
  · simpa [hc] using hk
  · exact h.2 c hc

/-- The zero fill of `n` slots from `k` on puts 0 in each and leaves every other slot alone (R124). -/
theorem lookup_zeroFill (n k j : Nat) (m : Memory) :
    Memory.lookup (Memory.zeroFill n k m) j = if k ≤ j ∧ j < k + n then some 0 else Memory.lookup m j := by
  induction n generalizing k m with
  | zero =>
    simp [Memory.zeroFill]
  | succ n ih =>
    rw [Memory.zeroFill, ih, lookup_write]
    by_cases h1 : k + 1 ≤ j ∧ j < k + 1 + n
    · have h2 : k ≤ j ∧ j < k + (n + 1) := by omega
      rw [if_pos h1, if_pos h2]
    · rw [if_neg h1]
      by_cases h2 : j = k
      · have h3 : k ≤ j ∧ j < k + (n + 1) := by omega
        rw [if_pos h2, if_pos h3]
      · have h3 : ¬(k ≤ j ∧ j < k + (n + 1)) := by omega
        rw [if_neg h2, if_neg h3]

/-- The zero fill keeps the canonical form. -/
theorem wf_zeroFill {n k : Nat} {m : Memory} (hk : k + n ≤ Config.bufCap) (h : Memory.wf m) :
    Memory.wf (Memory.zeroFill n k m) := by
  induction n generalizing k m with
  | zero => exact h
  | succ n ih => exact ih (by omega) (wf_write 0 (by omega) h)

/-- Two canonical memories that agree on every slot are equal lists: the canonical form has one list per contents. -/
theorem ext_of_wf {m m' : Memory} (h : Memory.wf m) (h' : Memory.wf m')
    (e : ∀ k, Memory.lookup m k = Memory.lookup m' k) : m = m' := by
  induction m generalizing m' with
  | nil =>
    cases m' with
    | nil => rfl
    | cons c m' =>
      have hc := e c.1
      rw [lookup_nil, lookup_cons, if_pos rfl] at hc
      exact absurd hc (by simp)
  | cons c m ih =>
    cases m' with
    | nil =>
      have hc := e c.1
      rw [lookup_nil, lookup_cons, if_pos rfl] at hc
      exact absurd hc (by simp)
    | cons d m' =>
      obtain ⟨a, v⟩ := c
      obtain ⟨b, w⟩ := d
      have hm := List.pairwise_cons.1 h.1
      have hm' := List.pairwise_cons.1 h'.1
      have hab : a = b := by
        rcases Nat.lt_trichotomy a b with hlt | heq | hgt
        · have h2 := e a
          rw [lookup_cons, if_pos rfl, lookup_cons, if_neg (by omega),
            lookup_of_forall_lt fun c hc => Nat.lt_trans hlt (hm'.1 c hc)] at h2
          exact absurd h2 (by simp)
        · exact heq
        · have h2 := e b
          rw [lookup_cons, if_neg (by omega), lookup_of_forall_lt fun c hc => Nat.lt_trans hgt (hm.1 c hc), lookup_cons,
            if_pos rfl] at h2
          exact absurd h2 (by simp)
      subst hab
      have hvw : v = w := by
        have := e a
        simpa [lookup_cons] using this
      subst hvw
      have htail : m = m' := by
        refine ih ⟨hm.2, fun c hc => h.2 c (by simp [hc])⟩ ⟨hm'.2, fun c hc => h'.2 c (by simp [hc])⟩ fun k => ?_
        have hk := e k
        rw [lookup_cons, lookup_cons] at hk
        by_cases hak : a = k
        · subst hak
          rw [lookup_of_forall_lt fun c hc => hm.1 c hc, lookup_of_forall_lt fun c hc => hm'.1 c hc]
        · simpa [hak] using hk
      rw [htail]

/-- The memory of the reset state has the canonical form. -/
theorem wf_reset : Memory.wf State.reset.txc.buf := by decide

theorem read_of_lookup {m : Memory} {k : Nat} {v : Tick} (e : Nat) (h : Memory.lookup m k = some v) :
    Memory.read e m k = v := by
  simp [Memory.read, h]

theorem read_congr {m m' : Memory} {k : Nat} (e : Nat) (h : Memory.lookup m k = Memory.lookup m' k) :
    Memory.read e m k = Memory.read e m' k := by
  simp [Memory.read, h]

end Sys2Proof.Laws.Memory
end

