-- ==== Sys2Proof/Laws/PerInstr.lean ====
section
/-! SUPPORT. Statements made of every stimulus, one lemma per constructor. -/

namespace Sys2Proof.Laws.EncodedFields

open Sys2Proof.Laws.Encoding

/-- The word of a stimulus carries its `op` in bits 39:32 and its argument, or 0, in bits 31:0 (R60, R62). -/
def Statement (i : Instr) : Prop :=
  opOf (encode i) = opcode i ∧ argOf (encode i) = (argument? i).getD 0

theorem startAsyncRx (ctx : Word) : Statement (.startAsyncRx ctx) := ⟨opOf_append _ _, argOf_append _ _⟩

theorem stopAsyncRx : Statement .stopAsyncRx := ⟨opOf_append _ _, argOf_append _ _⟩

theorem startAsyncTx (ctx : Word) : Statement (.startAsyncTx ctx) := ⟨opOf_append _ _, argOf_append _ _⟩

theorem stopAsyncTx : Statement .stopAsyncTx := ⟨opOf_append _ _, argOf_append _ _⟩

theorem isAsyncTxComplete : Statement .isAsyncTxComplete := ⟨opOf_append _ _, argOf_append _ _⟩

theorem setFrequency (hz : Word) : Statement (.setFrequency hz) := ⟨opOf_append _ _, argOf_append _ _⟩

theorem isTxAllowed (hz : Word) : Statement (.isTxAllowed hz) := ⟨opOf_append _ _, argOf_append _ _⟩

theorem rxTick (n : Word) : Statement (.rxTick n) := ⟨opOf_append _ _, argOf_append _ _⟩

theorem rxFall : Statement .rxFall := ⟨opOf_append _ _, argOf_append _ _⟩

theorem rxRise : Statement .rxRise := ⟨opOf_append _ _, argOf_append _ _⟩

theorem txUpdate : Statement .txUpdate := ⟨opOf_append _ _, argOf_append _ _⟩

theorem srcPush (y : Word) : Statement (.srcPush y) := ⟨opOf_append _ _, argOf_append _ _⟩

theorem reset : Statement .reset := ⟨opOf_append _ _, argOf_append _ _⟩

end Sys2Proof.Laws.EncodedFields
end

