-- ==== Sys2Proof/Laws/Symbols.lean ====
section
/-! SUPPORT. The laws of the encodings: the fields of the words, and what the symbol words decode to. -/

namespace Sys2Proof.Laws.Symbols

/-- Bits 31:30 of a symbol word as a number. -/
theorem tagOf_toNat (y : Word) : (tagOf y).toNat = y.toNat / 2 ^ 30 := by
  have h := y.isLt
  simp only [tagOf, BitVec.extractLsb'_toNat, Nat.shiftRight_eq_div_pow]
  omega

/-- Bits 29:0 of a symbol word as a number. -/
theorem durOf_toNat (y : Word) : (durOf y).toNat = y.toNat % 2 ^ 30 := by
  have h := y.isLt
  simp only [durOf, BitVec.toNat_setWidth, BitVec.extractLsb'_toNat, Nat.shiftRight_eq_div_pow, Nat.pow_zero, Nat.div_one]
  omega

/-- The largest duration a symbol carries is 2^30 - 1 (R65). -/
theorem durOf_lt (y : Word) : (durOf y).toNat < 2 ^ 30 := by
  rw [durOf_toNat]
  omega

/-- The four tags of a symbol word and what each decodes to (R65). -/
theorem decodeSymbol_cases (y : Word) :
    (y.toNat / 2 ^ 30 = 0 ∧ decodeSymbol y = .reset) ∨
    (y.toNat / 2 ^ 30 = 1 ∧ decodeSymbol y = .timed .low (durOf y)) ∨
    (y.toNat / 2 ^ 30 = 2 ∧ decodeSymbol y = .timed .high (durOf y)) ∨
    (y.toNat / 2 ^ 30 = 3 ∧ decodeSymbol y = .wait) := by
  have h := y.isLt
  have ht := tagOf_toNat y
  have h4 : y.toNat / 2 ^ 30 < 4 := by omega
  generalize hn : y.toNat / 2 ^ 30 = n at *
  match n, h4 with
  | 0, _ => simp [decodeSymbol, ht]
  | 1, _ => simp [decodeSymbol, ht]
  | 2, _ => simp [decodeSymbol, ht]
  | 3, _ => simp [decodeSymbol, ht]

/-- A `Timed` symbol's duration is that of its word. -/
theorem dur_of_timed {y : Word} {l : Level} {d : Tick} (h : decodeSymbol y = .timed l d) : d = durOf y := by
  rcases decodeSymbol_cases y with ⟨_, e⟩ | ⟨_, e⟩ | ⟨_, e⟩ | ⟨_, e⟩ <;> rw [e] at h <;> simp_all

theorem dur_lt_of_timed {y : Word} {l : Level} {d : Tick} (h : decodeSymbol y = .timed l d) : d.toNat < 2 ^ 30 := by
  rw [dur_of_timed h]
  exact durOf_lt y

/-- A well-formed word decodes to no `Timed` symbol of duration 0 (R65, R208). -/
theorem dur_ne_zero_of_wellFormed {y : Word} {l : Level} {d : Tick} (hy : symbolWordWellFormed y = true)
    (h : decodeSymbol y = .timed l d) : d ≠ 0 := by
  intro hd
  have hz : y.toNat % 2 ^ 30 = 0 := by
    rw [← durOf_toNat, ← dur_of_timed h, hd]
    rfl
  have hw : y ≠ 0x40000000#32 ∧ y ≠ 0x80000000#32 := by simpa [symbolWordWellFormed] using hy
  rcases decodeSymbol_cases y with ⟨_, e⟩ | ⟨ht, _⟩ | ⟨ht, _⟩ | ⟨_, e⟩
  · rw [e] at h
    simp at h
  · exact hw.1 (BitVec.eq_of_toNat_eq (by simp; omega))
  · exact hw.2 (BitVec.eq_of_toNat_eq (by simp; omega))
  · rw [e] at h
    simp at h

/-- An ill-formed word is exactly one that decodes to a `Timed` symbol of duration 0 (R65). -/
theorem illFormed_iff (y : Word) : symbolWordWellFormed y = false ↔ ∃ l, decodeSymbol y = .timed l 0 := by
  constructor
  · intro h
    have h2 : y = 0x40000000#32 ∨ y = 0x80000000#32 := by
      have h3 : y ≠ 0x40000000#32 → y = 0x80000000#32 := by simpa [symbolWordWellFormed] using h
      by_cases h4 : y = 0x40000000#32
      · exact .inl h4
      · exact .inr (h3 h4)
    rcases h2 with rfl | rfl
    · exact ⟨.low, by decide⟩
    · exact ⟨.high, by decide⟩
  · rintro ⟨l, h⟩
    cases hw : symbolWordWellFormed y
    · rfl
    · exact absurd rfl (dur_ne_zero_of_wellFormed hw h)

theorem encode_timed_toNat (l : Level) (d : Tick) :
    (encodeSymbol (.timed l d)).toNat = (if l = .low then 2 ^ 30 else 2 ^ 31) + d.toNat % 2 ^ 30 := by
  have hd : (d.extractLsb' 0 30).toNat = d.toNat % 2 ^ 30 := by
    simp [BitVec.extractLsb'_toNat]
  have ha (t : BitVec 2) : (t ++ d.extractLsb' 0 30 : BitVec 32).toNat = 2 ^ 30 * t.toNat + d.toNat % 2 ^ 30 := by
    rw [BitVec.toNat_append, hd, Nat.shiftLeft_eq, Nat.mul_comm]
    exact (Nat.two_pow_add_eq_or_of_lt (by omega) _).symm
  cases l
  · simp only [encodeSymbol, ha]
    simp
  · simp only [encodeSymbol, ha]
    simp

/-- `word` is the inverse of `decode` on the `Timed` symbols a word can carry (R64, R123). -/
theorem decode_encode_timed (l : Level) (d : Tick) (hd : d.toNat < 2 ^ 30) :
    decodeSymbol (encodeSymbol (.timed l d)) = .timed l d := by
  have hn := encode_timed_toNat l d
  have hdur : durOf (encodeSymbol (.timed l d)) = d := by
    apply BitVec.eq_of_toNat_eq
    rw [durOf_toNat, hn]
    cases l <;> simp <;> omega
  have hc := decodeSymbol_cases (encodeSymbol (.timed l d))
  rw [hdur] at hc
  cases l <;> simp at hn <;> rcases hc with ⟨h, e⟩ | ⟨h, e⟩ | ⟨h, e⟩ | ⟨h, e⟩ <;> first | exact e | omega

theorem decode_encode_wait : decodeSymbol (encodeSymbol .wait) = .wait := by decide

theorem decode_encode_reset : decodeSymbol (encodeSymbol .reset) = .reset := by decide

end Sys2Proof.Laws.Symbols
end

