-- ==== Sys2Proof/Laws/Refill.lean ====
section
/-! SUPPORT. What a refill can do, said once: one lemma per operation on a `Fill`, the induction over the loop of R117
packaged as `fillLoop_rule`, and what follows from it for the slots, the accumulators, the source and the held symbol
(spec/42_transmit_engine.md R115 to R125). -/

namespace Sys2Proof.Laws.Refill

open Sys2Proof.Machine
open Sys2Proof.Laws
open Sys2Proof.Safety (upcoming)

/-! ## The guard time -/

/-- `1 <= GUARD_TIME < 2^30` (R5). -/
theorem guardTime_bounds : 1 ≤ Config.guardTime.toNat ∧ Config.guardTime.toNat < 2 ^ 30 := by
  have h := Config.guardTimeLessOne.isLt
  have e : Config.guardTime.toNat = Config.guardTimeLessOne.val + 1 := by
    unfold Config.guardTime
    rw [BitVec.toNat_ofNat]
    omega
  omega

theorem guardTime_ne_zero : Config.guardTime ≠ 0 := by
  intro h
  have := guardTime_bounds.1
  rw [h] at this
  simp at this

/-! ## One symbol -/

theorem nextSymbol_ctx (f : Fill) : f.nextSymbol.2.ctx = { f.ctx with pendV := false } := by
  cases h : f.ctx.pendV
  · cases hs : f.src.script <;> simp only [Fill.nextSymbol, SymbolSource.pull, h, hs] <;> (cases hc : f.ctx; simp_all)
  · simp [Fill.nextSymbol, h]

/-- Taking a symbol takes the first of the words to come; with none to come it is `Wait` (R72, R118). -/
theorem nextSymbol_upcoming (f : Fill) :
    (upcoming f = [] ∧ f.nextSymbol.1 = .wait ∧ upcoming f.nextSymbol.2 = []) ∨
      ∃ y ys, upcoming f = y :: ys ∧ f.nextSymbol.1 = decodeSymbol y ∧ upcoming f.nextSymbol.2 = ys := by
  cases h : f.ctx.pendV
  · cases hs : f.src.script with
    | nil =>
      refine .inl ⟨by simp [upcoming, h, hs], ?_, ?_⟩
      · simp only [Fill.nextSymbol, SymbolSource.pull, h, hs]
        decide
      · simp [upcoming, Fill.nextSymbol, SymbolSource.pull, h, hs]
    | cons y ys =>
      refine .inr ⟨y, ys, by simp [upcoming, h, hs], ?_, ?_⟩
      · simp only [Fill.nextSymbol, SymbolSource.pull, h, hs]
      · simp [upcoming, Fill.nextSymbol, SymbolSource.pull, h, hs]
  · refine .inr ⟨f.ctx.pendSym, f.src.script, by simp [upcoming, h], ?_, ?_⟩
    · simp [Fill.nextSymbol, h]
    · simp [upcoming, Fill.nextSymbol, h]

/-- At most one `pull` call, whose answer is the word taken from the script, or `Wait` from an empty one, and whose
context is that of the transmission (R118). -/
theorem nextSymbol_src (f : Fill) :
    ∃ new, f.nextSymbol.2.src.calls = f.src.calls ++ new ∧ new.length ≤ 1 ∧
      f.nextSymbol.2.src.script = f.src.script.drop new.length ∧ ∀ c ∈ new, c.ctx = f.ctx.ctx := by
  cases h : f.ctx.pendV
  · cases hs : f.src.script with
    | nil => exact ⟨[⟨f.ctx.ctx, waitWord⟩], by simp [Fill.nextSymbol, SymbolSource.pull, h, hs]⟩
    | cons y ys => exact ⟨[⟨f.ctx.ctx, y⟩], by simp [Fill.nextSymbol, SymbolSource.pull, h, hs]⟩
  · exact ⟨[], by simp [Fill.nextSymbol, h]⟩

/-- Where a symbol comes from: the held word or the head of the script, when it is not `Wait`. -/
theorem timed_word {f : Fill} {l : Level} {d : Tick} (h : f.nextSymbol.1 = .timed l d) :
    ∃ y ys, upcoming f = y :: ys ∧ decodeSymbol y = .timed l d ∧ upcoming f.nextSymbol.2 = ys := by
  rcases nextSymbol_upcoming f with ⟨_, hw, _⟩ | ⟨y, ys, hu, hy, hr⟩
  · rw [hw] at h
    simp at h
  · exact ⟨y, ys, hu, by rw [← hy, h], hr⟩

/-! ## One slot -/

@[simp] theorem atSlot_ctx (k : Nat) (f : Fill) : (f.atSlot k).ctx = { f.ctx with parity := parityOf k } := rfl

@[simp] theorem atSlot_src (k : Nat) (f : Fill) : (f.atSlot k).src = f.src := rfl

@[simp] theorem upcoming_atSlot (k : Nat) (f : Fill) : upcoming (f.atSlot k) = upcoming f := rfl

@[simp] theorem put_buf (k : Nat) (v : Tick) (f : Fill) :
    (f.put k v).ctx.buf = Memory.write f.ctx.buf k v := by
  cases h : f.ctx.parity <;> simp [Fill.put, h]

@[simp] theorem put_parity (k : Nat) (v : Tick) (f : Fill) : (f.put k v).ctx.parity = !f.ctx.parity := by
  cases h : f.ctx.parity <;> simp [Fill.put, h]

@[simp] theorem put_dutyH (k : Nat) (v : Tick) (f : Fill) :
    (f.put k v).ctx.dutyH = f.ctx.dutyH + (if f.ctx.parity = false then v.zeroExtend 64 else 0) := by
  cases h : f.ctx.parity <;> simp [Fill.put, h]

@[simp] theorem put_dutyL (k : Nat) (v : Tick) (f : Fill) :
    (f.put k v).ctx.dutyL = f.ctx.dutyL + (if f.ctx.parity = true then v.zeroExtend 64 else 0) := by
  cases h : f.ctx.parity <;> simp [Fill.put, h]

@[simp] theorem put_pendV (k : Nat) (v : Tick) (f : Fill) : (f.put k v).ctx.pendV = f.ctx.pendV := by
  cases h : f.ctx.parity <;> simp [Fill.put, h]

@[simp] theorem put_pendSym (k : Nat) (v : Tick) (f : Fill) : (f.put k v).ctx.pendSym = f.ctx.pendSym := by
  cases h : f.ctx.parity <;> simp [Fill.put, h]

@[simp] theorem put_ctx (k : Nat) (v : Tick) (f : Fill) : (f.put k v).ctx.ctx = f.ctx.ctx := by
  cases h : f.ctx.parity <;> simp [Fill.put, h]

@[simp] theorem put_src (k : Nat) (v : Tick) (f : Fill) : (f.put k v).src = f.src := by
  cases h : f.ctx.parity <;> simp [Fill.put, h]

@[simp] theorem upcoming_put (k : Nat) (v : Tick) (f : Fill) : upcoming (f.put k v) = upcoming f := by
  simp [upcoming]

@[simp] theorem hold_buf (l : Level) (d : Tick) (f : Fill) : (f.hold l d).ctx.buf = f.ctx.buf := rfl

@[simp] theorem hold_parity (l : Level) (d : Tick) (f : Fill) : (f.hold l d).ctx.parity = f.ctx.parity := rfl

@[simp] theorem hold_dutyH (l : Level) (d : Tick) (f : Fill) : (f.hold l d).ctx.dutyH = f.ctx.dutyH := rfl

@[simp] theorem hold_dutyL (l : Level) (d : Tick) (f : Fill) : (f.hold l d).ctx.dutyL = f.ctx.dutyL := rfl

@[simp] theorem hold_pendV (l : Level) (d : Tick) (f : Fill) : (f.hold l d).ctx.pendV = true := rfl

@[simp] theorem hold_pendSym (l : Level) (d : Tick) (f : Fill) :
    (f.hold l d).ctx.pendSym = encodeSymbol (.timed l d) := rfl

@[simp] theorem hold_ctx (l : Level) (d : Tick) (f : Fill) : (f.hold l d).ctx.ctx = f.ctx.ctx := rfl

@[simp] theorem hold_src (l : Level) (d : Tick) (f : Fill) : (f.hold l d).src = f.src := rfl

@[simp] theorem zeroFill_buf (n k : Nat) (f : Fill) : (f.zeroFill n k).ctx.buf = Memory.zeroFill n k f.ctx.buf := rfl

@[simp] theorem zeroFill_src (n k : Nat) (f : Fill) : (f.zeroFill n k).src = f.src := rfl

theorem zeroFill_ctx (n k : Nat) (f : Fill) :
    (f.zeroFill n k).ctx = { f.ctx with buf := Memory.zeroFill n k f.ctx.buf } := rfl

theorem parityOf_eq (k : Nat) : parityOf k = decide (k % 2 = 1) := by
  rcases Nat.mod_two_eq_zero_or_one k with h | h <;> rw [parityOf, h] <;> rfl

@[simp] theorem parityOf_succ (k : Nat) : parityOf (k + 1) = !parityOf k := by
  rw [parityOf_eq, parityOf_eq]
  rcases Nat.mod_two_eq_zero_or_one k with h | h <;> simp [h] <;> omega

/-! ## The loop -/

/-- The state of the fill after a slot's parity is set and a symbol is taken: what each turn of the loop starts with. -/
def taken (k : Nat) (f : Fill) : Fill := (f.atSlot k).nextSymbol.2

/-- The symbol a turn of the loop takes. -/
def symbolAt (k : Nat) (f : Fill) : Symbol := (f.atSlot k).nextSymbol.1

theorem taken_ctx (k : Nat) (f : Fill) : (taken k f).ctx = { f.ctx with parity := parityOf k, pendV := false } := by
  simp [taken, nextSymbol_ctx]

@[simp] theorem taken_buf (k : Nat) (f : Fill) : (taken k f).ctx.buf = f.ctx.buf := by simp [taken_ctx]
@[simp] theorem taken_parity (k : Nat) (f : Fill) : (taken k f).ctx.parity = parityOf k := by simp [taken_ctx]
@[simp] theorem taken_dutyH (k : Nat) (f : Fill) : (taken k f).ctx.dutyH = f.ctx.dutyH := by simp [taken_ctx]
@[simp] theorem taken_dutyL (k : Nat) (f : Fill) : (taken k f).ctx.dutyL = f.ctx.dutyL := by simp [taken_ctx]
@[simp] theorem taken_pendV (k : Nat) (f : Fill) : (taken k f).ctx.pendV = false := by simp [taken_ctx]
@[simp] theorem taken_pendSym (k : Nat) (f : Fill) : (taken k f).ctx.pendSym = f.ctx.pendSym := by simp [taken_ctx]
@[simp] theorem taken_ctx_ctx (k : Nat) (f : Fill) : (taken k f).ctx.ctx = f.ctx.ctx := by simp [taken_ctx]

theorem fillLoop_zero (g : Tick) (k : Nat) (f : Fill) : fillLoop g 0 k f = .done 0 f := by
  rw [fillLoop]

/-- One turn of the loop (R117). -/
theorem fillLoop_succ (g : Tick) (n k : Nat) (f : Fill) :
    fillLoop g (n + 1) k f =
      match symbolAt k f with
      | .wait => .done (n + 1) (taken k f)
      | .reset => if parityOf k then .done n ((taken k f).put k g) else .done (n + 1) (taken k f)
      | .timed l d =>
        if d = 0 then .zeroDuration (taken k f)
        else if l = lvl (parityOf k) then fillLoop g n (k + 1) ((taken k f).put k d)
        else
          match n with
          | 0 => .done 0 (((taken k f).put k g).hold l d)
          | m + 1 => fillLoop g m (k + 2) (((taken k f).put k g).put (k + 1) d) := by
  have hp : (f.atSlot k).nextSymbol.2.ctx.parity = parityOf k := taken_parity k f
  conv => lhs; unfold fillLoop
  unfold symbolAt taken
  generalize hq : (f.atSlot k).nextSymbol = q at hp ⊢
  obtain ⟨s, t⟩ := q
  cases s <;> simp only [] at hp ⊢ <;> simp only [hp]
  all_goals cases n <;> rfl

/-- The induction over the loop, once: a relation between a call of the loop and its end holds if it holds of each way
the loop can end and is carried back over each way it can go on. -/
theorem fillLoop_rule {g : Tick} {P : Nat → Nat → Fill → FillEnd → Prop}
    (zero : ∀ k f, P 0 k f (.done 0 f))
    (wait : ∀ n k f, symbolAt k f = .wait → P (n + 1) k f (.done (n + 1) (taken k f)))
    (resetOdd : ∀ n k f, symbolAt k f = .reset → parityOf k = true →
      P (n + 1) k f (.done n ((taken k f).put k g)))
    (resetEven : ∀ n k f, symbolAt k f = .reset → parityOf k = false →
      P (n + 1) k f (.done (n + 1) (taken k f)))
    (zeroDur : ∀ n k f l, symbolAt k f = .timed l 0 → P (n + 1) k f (.zeroDuration (taken k f)))
    (hold : ∀ k f l d, symbolAt k f = .timed l d → d ≠ 0 → l ≠ lvl (parityOf k) →
      P 1 k f (.done 0 (((taken k f).put k g).hold l d)))
    (fits : ∀ n k f l d r, symbolAt k f = .timed l d → d ≠ 0 → l = lvl (parityOf k) →
      P n (k + 1) ((taken k f).put k d) r → P (n + 1) k f r)
    (guarded : ∀ n k f l d r, symbolAt k f = .timed l d → d ≠ 0 → l ≠ lvl (parityOf k) →
      P n (k + 2) (((taken k f).put k g).put (k + 1) d) r → P (n + 2) k f r)
    (left k : Nat) (f : Fill) : P left k f (fillLoop g left k f) := by
  induction left using Nat.strong_induction_on generalizing k f with
  | _ left ih =>
    cases left with
    | zero =>
      rw [fillLoop_zero]
      exact zero k f
    | succ n =>
      rw [fillLoop_succ]
      cases hs : symbolAt k f with
      | wait => exact wait n k f hs
      | reset =>
        cases hp : parityOf k
        · simpa using resetEven n k f hs hp
        · simpa using resetOdd n k f hs hp
      | timed l d =>
        by_cases hd : d = 0
        · subst hd
          simpa using zeroDur n k f l hs
        · by_cases hl : l = lvl (parityOf k)
          · simp only [hd, hl, if_true, if_false]
            exact fits n k f l d _ hs hd hl (ih n (by omega) _ _)
          · simp only [hd, hl, if_false]
            cases n with
            | zero => exact hold k f l d hs hd hl
            | succ m => exact guarded m k f l d _ hs hd hl (ih m (by omega) _ _)

/-! ## The slots and the accumulators -/

/-- The fill a loop ended with. -/
def fillOf : FillEnd → Fill
  | .done _ f => f
  | .zeroDuration f => f

/-- What the loop wrote: the `used` slots from `k` on, each not 0, no other slot; each value added to the accumulator
of its slot's parity; the context of the transmission and the canonical form kept. -/
structure Wrote (k used : Nat) (f f' : Fill) : Prop where
  ctx : f'.ctx.ctx = f.ctx.ctx
  outside : ∀ j, ¬(k ≤ j ∧ j < k + used) → Memory.lookup f'.ctx.buf j = Memory.lookup f.ctx.buf j
  inside : ∀ j, k ≤ j → j < k + used → ∃ v, Memory.lookup f'.ctx.buf j = some v ∧ v ≠ 0
  dutyH : f'.ctx.dutyH = f.ctx.dutyH + Safety.sideTicks f'.ctx.buf false used k
  dutyL : f'.ctx.dutyL = f.ctx.dutyL + Safety.sideTicks f'.ctx.buf true used k
  wf : k + used ≤ Config.bufCap → Memory.wf f.ctx.buf → Memory.wf f'.ctx.buf

theorem Wrote.refl {k : Nat} {f f' : Fill} (hb : f'.ctx.buf = f.ctx.buf) (hc : f'.ctx.ctx = f.ctx.ctx)
    (hH : f'.ctx.dutyH = f.ctx.dutyH) (hL : f'.ctx.dutyL = f.ctx.dutyL) : Wrote k 0 f f' where
  ctx := hc
  outside := fun _ _ => by rw [hb]
  inside := fun j h1 h2 => by omega
  dutyH := by simp [Safety.sideTicks, hH]
  dutyL := by simp [Safety.sideTicks, hL]
  wf := fun _ h => hb ▸ h

/-- One slot written before the rest: how `Wrote` grows by a turn of the loop. -/
theorem Wrote.cons {k used : Nat} {v : Tick} {f t f' : Fill} (hv : v ≠ 0) (hp : t.ctx.parity = parityOf k)
    (hb : t.ctx.buf = f.ctx.buf) (hc : t.ctx.ctx = f.ctx.ctx) (hH : t.ctx.dutyH = f.ctx.dutyH)
    (hL : t.ctx.dutyL = f.ctx.dutyL) (h : Wrote (k + 1) used (t.put k v) f') : Wrote k (used + 1) f f' := by
  have hk : Memory.lookup f'.ctx.buf k = some v := by
    rw [h.outside k (by omega), put_buf, Memory.lookup_write_same]
  refine ⟨by rw [h.ctx, put_ctx, hc], fun j hj => ?_, fun j h1 h2 => ?_, ?_, ?_, fun hw hf => ?_⟩
  · rw [h.outside j (by omega), put_buf, hb, Memory.lookup_write_other _ _ (by omega)]
  · by_cases hjk : j = k
    · subst hjk
      exact ⟨v, hk, hv⟩
    · exact h.inside j (by omega) (by omega)
  · rw [h.dutyH, put_dutyH, hH, hp, Safety.sideTicks, hk]
    cases parityOf k <;> simp [BitVec.add_assoc]
  · rw [h.dutyL, put_dutyL, hL, hp, Safety.sideTicks, hk]
    cases parityOf k <;> simp [BitVec.add_assoc]
  · refine h.wf (by omega) ?_
    rw [put_buf, hb]
    exact Memory.wf_write v (by omega) hf

/-- Everything the loop writes, for a guard time that is not 0. -/
theorem fillLoop_wrote {g : Tick} (hg : g ≠ 0) (left k : Nat) (f : Fill) :
    ∃ used rest, left = used + rest ∧ Wrote k used f (fillOf (fillLoop g left k f)) ∧
      ∀ n f', fillLoop g left k f = .done n f' → n = rest := by
  refine fillLoop_rule
    (P := fun left k f r => ∃ used rest, left = used + rest ∧ Wrote k used f (fillOf r) ∧
      ∀ n f', r = .done n f' → n = rest) ?_ ?_ ?_ ?_ ?_ ?_ ?_ ?_ left k f
  · intro k f
    exact ⟨0, 0, rfl, .refl rfl rfl rfl rfl, by simp_all⟩
  · intro n k f _
    exact ⟨0, n + 1, by omega, .refl (by simp [fillOf]) (by simp [fillOf]) (by simp [fillOf]) (by simp [fillOf]), by simp_all⟩
  · intro n k f _ _
    refine ⟨1, n, by omega, .cons (t := taken k f) hg (by simp) (by simp) (by simp) (by simp) (by simp) ?_, by simp_all⟩
    exact .refl rfl rfl rfl rfl
  · intro n k f _ _
    exact ⟨0, n + 1, by omega, .refl (by simp [fillOf]) (by simp [fillOf]) (by simp [fillOf]) (by simp [fillOf]), by simp_all⟩
  · intro n k f l _
    exact ⟨0, n + 1, by omega, .refl (by simp [fillOf]) (by simp [fillOf]) (by simp [fillOf]) (by simp [fillOf]), by simp⟩
  · intro k f l d _ _ _
    refine ⟨1, 0, by omega, .cons (t := taken k f) hg (by simp) (by simp) (by simp) (by simp) (by simp) ?_, by simp_all⟩
    exact .refl rfl rfl rfl rfl
  · rintro n k f l d r _ hd _ ⟨used, rest, e, hw, hn⟩
    exact ⟨used + 1, rest, by omega, .cons (t := taken k f) hd (by simp) (by simp) (by simp) (by simp) (by simp) hw, hn⟩
  · rintro n k f l d r _ hd _ ⟨used, rest, e, hw, hn⟩
    refine ⟨used + 2, rest, by omega,
      .cons (t := taken k f) hg (by simp) (by simp) (by simp) (by simp) (by simp)
        (.cons (t := (taken k f).put k g) hd (by simp) rfl rfl rfl rfl hw), hn⟩

/-! ## The source -/

/-- The loop pulls at most one symbol per slot it was asked for, takes the script's words in order, and passes the
context of the transmission (R117, R118). -/
theorem fillLoop_pulls (g : Tick) (left k : Nat) (f : Fill) :
    ∃ new, (fillOf (fillLoop g left k f)).src.calls = f.src.calls ++ new ∧ new.length ≤ left ∧
      (fillOf (fillLoop g left k f)).src.script = f.src.script.drop new.length ∧ ∀ c ∈ new, c.ctx = f.ctx.ctx := by
  have one (k : Nat) (f : Fill) : ∃ new, (taken k f).src.calls = f.src.calls ++ new ∧ new.length ≤ 1 ∧
      (taken k f).src.script = f.src.script.drop new.length ∧ ∀ c ∈ new, c.ctx = f.ctx.ctx := by
    obtain ⟨new, h1, h2, h3, h4⟩ := nextSymbol_src (f.atSlot k)
    exact ⟨new, h1, h2, h3, h4⟩
  have more {n m k k' : Nat} {f f1 : Fill} {r : FillEnd} (hn : n + 1 ≤ m) (hsrc : f1.src = (taken k f).src)
      (hctx : f1.ctx.ctx = f.ctx.ctx)
      (h : ∃ new, (fillOf r).src.calls = f1.src.calls ++ new ∧ new.length ≤ n ∧
        (fillOf r).src.script = f1.src.script.drop new.length ∧ ∀ c ∈ new, c.ctx = f1.ctx.ctx) :
      ∃ new, (fillOf r).src.calls = f.src.calls ++ new ∧ new.length ≤ m ∧
        (fillOf r).src.script = f.src.script.drop new.length ∧ ∀ c ∈ new, c.ctx = f.ctx.ctx := by
    obtain ⟨a, a1, a2, a3, a4⟩ := one k f
    obtain ⟨b, b1, b2, b3, b4⟩ := h
    refine ⟨a ++ b, by rw [b1, hsrc, a1, List.append_assoc], by simp; omega, ?_, ?_⟩
    · rw [b3, hsrc, a3, List.drop_drop, List.length_append]
    · intro c hc
      rcases List.mem_append.1 hc with hc | hc
      · exact a4 c hc
      · rw [b4 c hc, hctx]
  have last {m k : Nat} {f f1 : Fill} (hm : 1 ≤ m) (hsrc : f1.src = (taken k f).src) :
      ∃ new, f1.src.calls = f.src.calls ++ new ∧ new.length ≤ m ∧ f1.src.script = f.src.script.drop new.length ∧
        ∀ c ∈ new, c.ctx = f.ctx.ctx := by
    obtain ⟨a, a1, a2, a3, a4⟩ := one k f
    exact ⟨a, by rw [hsrc, a1], by omega, by rw [hsrc, a3], a4⟩
  refine fillLoop_rule
    (P := fun left k f r => ∃ new, (fillOf r).src.calls = f.src.calls ++ new ∧ new.length ≤ left ∧
      (fillOf r).src.script = f.src.script.drop new.length ∧ ∀ c ∈ new, c.ctx = f.ctx.ctx) ?_ ?_ ?_ ?_ ?_ ?_ ?_ ?_ left k f
  · intro k f
    exact ⟨[], by simp [fillOf]⟩
  · intro n k f _
    exact last (k := k) (by omega) rfl
  · intro n k f _ _
    exact last (k := k) (by omega) (put_src _ _ _)
  · intro n k f _ _
    exact last (k := k) (by omega) rfl
  · intro n k f l _
    exact last (k := k) (by omega) rfl
  · intro k f l d _ _ _
    exact last (k := k) (by omega) (put_src _ _ _)
  · intro n k f l d r _ _ _ h
    exact more (k' := k) (n := n) (by omega) (put_src _ _ _) (by simp) h
  · intro n k f l d r _ _ _ h
    exact more (k' := k) (n := n) (by omega) (by rw [put_src, put_src]) (by simp) h

/-- The loop does not end in a zero duration when the next words, one for each slot it is asked for, are well-formed:
it takes no more of them (R122, R125, R208). -/
theorem fillLoop_live (g : Tick) (left k : Nat) (f : Fill)
    (h : ∀ y ∈ (upcoming f).take left, symbolWordWellFormed y = true) : ∃ n f', fillLoop g left k f = .done n f' := by
  refine fillLoop_rule
    (P := fun left _ f r => (∀ y ∈ (upcoming f).take left, symbolWordWellFormed y = true) → ∃ n f', r = .done n f')
    ?_ ?_ ?_ ?_ ?_ ?_ ?_ ?_ left k f h
  any_goals (intros; exact ⟨_, _, rfl⟩)
  · intro n k f l hs hwf
    obtain ⟨y, ys, hu, hy, _⟩ := timed_word hs
    exact absurd rfl (Symbols.dur_ne_zero_of_wellFormed (hwf y (by rw [← upcoming_atSlot k, hu]; simp)) hy)
  · intro n k f l d r hs _ _ ih hwf
    obtain ⟨y, ys, hu, _, hr⟩ := timed_word hs
    refine ih fun z hz => hwf z ?_
    rw [upcoming_put, taken, hr] at hz
    rw [← upcoming_atSlot k, hu, List.take_succ_cons]
    exact List.mem_cons_of_mem _ hz
  · intro n k f l d r hs _ _ ih hwf
    obtain ⟨y, ys, hu, _, hr⟩ := timed_word hs
    refine ih fun z hz => hwf z ?_
    rw [upcoming_put, upcoming_put, taken, hr] at hz
    rw [← upcoming_atSlot k, hu, List.take_succ_cons]
    exact List.mem_cons_of_mem _ (List.take_subset_take_left ys (Nat.le_succ n) hz)

/-! ## The held symbol -/

/-- A symbol is held only by the last slot of an even request, which is odd: it is a `High` symbol whose duration is
not 0, and the slot holds a guard (R123). -/
theorem fillLoop_held (g : Tick) (left k : Nat) (f : Fill) (heven : (k + left) % 2 = 0) (n : Nat) (f' : Fill)
    (h : fillLoop g left k f = .done n f') (hv : f'.ctx.pendV = true) :
    (left = 0 ∧ f' = f) ∨
      (n = 0 ∧ Memory.lookup f'.ctx.buf (k + left - 1) = some g ∧
        ∃ d, decodeSymbol f'.ctx.pendSym = .timed .high d ∧ d ≠ 0) := by
  revert n f'
  refine fillLoop_rule
    (P := fun left k f r => (k + left) % 2 = 0 → ∀ n f', r = .done n f' → f'.ctx.pendV = true →
      (left = 0 ∧ f' = f) ∨ (n = 0 ∧ Memory.lookup f'.ctx.buf (k + left - 1) = some g ∧
        ∃ d, decodeSymbol f'.ctx.pendSym = .timed .high d ∧ d ≠ 0)) ?_ ?_ ?_ ?_ ?_ ?_ ?_ ?_ left k f heven
  · rintro k f _ n f' h _
    cases h
    exact .inl ⟨rfl, rfl⟩
  · rintro n k f _ _ m f' h hv
    cases h
    simp at hv
  · intro n k f _ _ _ m f' h hv
    simp [← (FillEnd.done.inj h).2] at hv
  · intro n k f _ _ _ m f' h hv
    exact absurd ((FillEnd.done.inj h).2 ▸ hv) (by simp)
  · rintro n k f l _ _ m f' h
    cases h
  · rintro k f l d hs hd hl he n f' h _
    cases h
    refine .inr ⟨rfl, by simp, d, ?_, hd⟩
    have hodd : parityOf k = true := by
      rw [parityOf_eq]
      simp
      omega
    have hhigh : l = .high := by
      rw [hodd] at hl
      cases l
      · exact absurd rfl hl
      · rfl
    subst hhigh
    obtain ⟨y, _, _, hy, _⟩ := timed_word hs
    simpa using Symbols.decode_encode_timed .high d (Symbols.dur_lt_of_timed hy)
  · rintro n k f l d r hs hd hl ih he m f' h hv
    rcases ih (by omega) m f' h hv with ⟨h0, hf⟩ | ⟨h0, hb, hx⟩
    · subst hf
      simp at hv
    · exact .inr ⟨h0, by rw [← hb]; congr 1; omega, hx⟩
  · rintro n k f l d r hs hd hl ih he m f' h hv
    rcases ih (by omega) m f' h hv with ⟨h0, hf⟩ | ⟨h0, hb, hx⟩
    · subst hf
      simp at hv
    · exact .inr ⟨h0, by rw [← hb]; congr 1; omega, hx⟩

/-! ## A whole request -/

theorem sideTicks_append (m : Memory) (odd : Bool) (a b k : Nat) :
    Safety.sideTicks m odd (a + b) k = Safety.sideTicks m odd a k + Safety.sideTicks m odd b (k + a) := by
  induction a generalizing k with
  | zero => simp [Safety.sideTicks]
  | succ a ih =>
    rw [Nat.succ_add, Safety.sideTicks, Safety.sideTicks, ih, BitVec.add_assoc]
    congr 3
    omega

theorem sideTicks_congr {m m' : Memory} {n k : Nat} (odd : Bool)
    (h : ∀ j, k ≤ j → j < k + n → Memory.lookup m j = Memory.lookup m' j) :
    Safety.sideTicks m odd n k = Safety.sideTicks m' odd n k := by
  induction n generalizing k with
  | zero => rfl
  | succ n ih =>
    rw [Safety.sideTicks, Safety.sideTicks, h k (by omega) (by omega), ih fun j h1 h2 => h j (by omega) (by omega)]

theorem sideTicks_zero {m : Memory} {n k : Nat} (odd : Bool)
    (h : ∀ j, k ≤ j → j < k + n → Memory.lookup m j = some 0) : Safety.sideTicks m odd n k = 0 := by
  induction n generalizing k with
  | zero => rfl
  | succ n ih =>
    rw [Safety.sideTicks, h k (by omega) (by omega), ih fun j h1 h2 => h j (by omega) (by omega)]
    simp

theorem window_even (w : Window) : w.base % 2 = 0 ∧ (w.base + w.count) % 2 = 0 ∧ w.base + w.count ≤ Config.bufCap ∧
    0 < w.count := by
  cases w <;> decide

/-- What a completed refill did (R115, R125): every slot of the window written and no other; what it put in the window
added to the accumulators, side by side; the pulls of R117; the held symbol of R123. -/
structure Filled (g : Tick) (w : Window) (f f' : Fill) : Prop where
  ctx : f'.ctx.ctx = f.ctx.ctx
  outside : ∀ j, ¬(w.base ≤ j ∧ j < w.base + w.count) → Memory.lookup f'.ctx.buf j = Memory.lookup f.ctx.buf j
  inside : ∀ j, w.base ≤ j → j < w.base + w.count → (Memory.lookup f'.ctx.buf j).isSome = true
  dutyH : f'.ctx.dutyH = f.ctx.dutyH + Safety.sideTicks f'.ctx.buf false w.count w.base
  dutyL : f'.ctx.dutyL = f.ctx.dutyL + Safety.sideTicks f'.ctx.buf true w.count w.base
  wf : Memory.wf f.ctx.buf → Memory.wf f'.ctx.buf
  pulls : ∃ new, f'.src.calls = f.src.calls ++ new ∧ new.length ≤ w.count ∧
    f'.src.script = f.src.script.drop new.length ∧ ∀ c ∈ new, c.ctx = f.ctx.ctx
  held : f'.ctx.pendV = true → Memory.lookup f'.ctx.buf (w.base + w.count - 1) = some g ∧
    ∃ d, decodeSymbol f'.ctx.pendSym = .timed .high d ∧ d ≠ 0

/-- What a refill that met a zero duration did (R122): only slots of the window written, each with its value added to
the accumulators. -/
structure Stopped (w : Window) (f f' : Fill) : Prop where
  ctx : f'.ctx.ctx = f.ctx.ctx
  outside : ∀ j, ¬(w.base ≤ j ∧ j < w.base + w.count) → Memory.lookup f'.ctx.buf j = Memory.lookup f.ctx.buf j
  wf : Memory.wf f.ctx.buf → Memory.wf f'.ctx.buf
  pulls : ∃ new, f'.src.calls = f.src.calls ++ new ∧ new.length ≤ w.count ∧
    f'.src.script = f.src.script.drop new.length ∧ ∀ c ∈ new, c.ctx = f.ctx.ctx

/-- Everything a refill can do: it fills its window, or it stops at a zero duration. -/
theorem refill_cases {g : Tick} (hg : g ≠ 0) (w : Window) (f : Fill) :
    (∃ f', refill g w f = .done 0 f' ∧ Filled g w f f') ∨ (∃ f', refill g w f = .zeroDuration f' ∧ Stopped w f f') := by
  obtain ⟨hb0, he, hcap, hpos⟩ := window_even w
  obtain ⟨used, rest, hsum, hw, hn⟩ := fillLoop_wrote hg w.count w.base f
  have hp := fillLoop_pulls g w.count w.base f
  have hh := fillLoop_held g w.count w.base f he
  cases hr : fillLoop g w.count w.base f with
  | zeroDuration f' =>
    rw [hr] at hw hp
    exact .inr ⟨f', by simp [refill, hr], hw.ctx, fun j hj => hw.outside j (by omega), hw.wf (by omega), hp⟩
  | done n f' =>
    rw [hr] at hw hp
    have hnr : n = rest := hn n f' hr
    subst hnr
    simp only [fillOf] at hw hp
    have hbase : w.base + w.count - n = w.base + used := by omega
    refine .inl ⟨f'.zeroFill n (w.base + w.count - n), by simp [refill, hr], ?_⟩
    have hz (j : Nat) : Memory.lookup (f'.zeroFill n (w.base + w.count - n)).ctx.buf j =
        if w.base + used ≤ j ∧ j < w.base + w.count then some 0 else Memory.lookup f'.ctx.buf j := by
      rw [zeroFill_buf, Memory.lookup_zeroFill, hbase]
      congr 2
      simp only [eq_iff_iff]
      omega
    have hside (odd : Bool) : Safety.sideTicks (f'.zeroFill n (w.base + w.count - n)).ctx.buf odd w.count w.base =
        Safety.sideTicks f'.ctx.buf odd used w.base := by
      have e : Safety.sideTicks (f'.zeroFill n (w.base + w.count - n)).ctx.buf odd w.count w.base =
          Safety.sideTicks (f'.zeroFill n (w.base + w.count - n)).ctx.buf odd used w.base +
            Safety.sideTicks (f'.zeroFill n (w.base + w.count - n)).ctx.buf odd n (w.base + used) := by
        rw [← sideTicks_append, ← hsum]
      have z : Safety.sideTicks (f'.zeroFill n (w.base + w.count - n)).ctx.buf odd n (w.base + used) = 0 :=
        sideTicks_zero odd fun j h1 h2 => by rw [hz, if_pos (by omega)]
      rw [e, z, add_zero]
      exact sideTicks_congr odd fun j h1 h2 => by rw [hz, if_neg (by omega)]
    refine ⟨hw.ctx, fun j hj => ?_, fun j h1 h2 => ?_, ?_, ?_, fun h => ?_, hp, fun hv => ?_⟩
    · rw [hz, if_neg (by omega)]
      exact hw.outside j (by omega)
    · rw [hz]
      by_cases hj : w.base + used ≤ j ∧ j < w.base + w.count
      · simp [hj]
      · obtain ⟨v, hv, _⟩ := hw.inside j h1 (by omega)
        simp [hj, hv]
    · rw [hside, zeroFill_ctx]
      exact hw.dutyH
    · rw [hside, zeroFill_ctx]
      exact hw.dutyL
    · rw [zeroFill_buf]
      exact Memory.wf_zeroFill (by omega) (hw.wf (by omega) h)
    · rcases hh n f' hr hv with ⟨h0, _⟩ | ⟨h0, hl, hx⟩
      · omega
      · refine ⟨?_, hx⟩
        rw [hz, if_neg (by omega)]
        exact hl

/-- A refill completes when the words it could take are well-formed (R122, R208). -/
theorem refill_live (g : Tick) (w : Window) (f : Fill)
    (h : ∀ y ∈ (upcoming f).take w.count, symbolWordWellFormed y = true) : ∃ f', refill g w f = .done 0 f' := by
  obtain ⟨n, f', e⟩ := fillLoop_live g w.count w.base f h
  exact ⟨_, by simp [refill, e]; rfl⟩

/-! ## A refill of a state -/

section OfState

variable (g : Tick) (w : Window) (s : State)

/-- What a refill of a state does: it fills the window, or it is fatal (R122, R170). -/
theorem state_refill_cases {g : Tick} (hg : g ≠ 0) (w : Window) (s : State) :
    (∃ f', Filled g w ⟨s.txc, s.src⟩ f' ∧ s.refill g w = { s with txc := f'.ctx, src := f'.src }) ∨
      (∃ f', Stopped w ⟨s.txc, s.src⟩ f' ∧
        s.refill g w = State.raiseFatal .zeroDuration { s with txc := f'.ctx, src := f'.src }) := by
  rcases refill_cases hg w ⟨s.txc, s.src⟩ with ⟨f', e, h⟩ | ⟨f', e, h⟩
  · exact .inl ⟨f', h, by simp [State.refill, e]⟩
  · exact .inr ⟨f', h, by simp [State.refill, e]⟩

theorem state_refill_done {g : Tick} {w : Window} {s : State} {n : Nat} {f : Fill}
    (h : Machine.refill g w ⟨s.txc, s.src⟩ = .done n f) : s.refill g w = { s with txc := f.ctx, src := f.src } := by
  simp [State.refill, h]

theorem state_refill_zeroDuration {g : Tick} {w : Window} {s : State} {f : Fill}
    (h : Machine.refill g w ⟨s.txc, s.src⟩ = .zeroDuration f) :
    s.refill g w = State.raiseFatal .zeroDuration { s with txc := f.ctx, src := f.src } := by
  simp [State.refill, h]

theorem state_refill_shape (s : State) :
    ∃ c q, s.refill g w = { s with txc := c, src := q } ∨
      s.refill g w = State.raiseFatal .zeroDuration { s with txc := c, src := q } := by
  unfold State.refill
  cases Machine.refill g w ⟨s.txc, s.src⟩ with
  | done n f => exact ⟨f.ctx, f.src, .inl rfl⟩
  | zeroDuration f => exact ⟨f.ctx, f.src, .inr rfl⟩

@[simp] theorem refill_dstate : (s.refill g w).dstate = s.dstate := by
  obtain ⟨c, q, h | h⟩ := state_refill_shape g w s <;> rw [h]
  simp

@[simp] theorem refill_reg : (s.refill g w).reg = s.reg := by
  obtain ⟨c, q, h | h⟩ := state_refill_shape g w s <;> rw [h]
  simp

@[simp] theorem refill_lastFreqV : (s.refill g w).lastFreqV = s.lastFreqV := by
  obtain ⟨c, q, h | h⟩ := state_refill_shape g w s <;> rw [h]
  simp

@[simp] theorem refill_lastFreq : (s.refill g w).lastFreq = s.lastFreq := by
  obtain ⟨c, q, h | h⟩ := state_refill_shape g w s <;> rw [h]
  simp

@[simp] theorem refill_rx : (s.refill g w).rx = s.rx := by
  obtain ⟨c, q, h | h⟩ := state_refill_shape g w s <;> rw [h]
  simp

@[simp] theorem refill_txAlloc : (s.refill g w).txAlloc = s.txAlloc := by
  obtain ⟨c, q, h | h⟩ := state_refill_shape g w s <;> rw [h]
  simp

@[simp] theorem refill_txt : (s.refill g w).txt = s.txt := by
  obtain ⟨c, q, h | h⟩ := state_refill_shape g w s <;> rw [h]
  simp

@[simp] theorem refill_radioMode : (s.refill g w).radioMode = s.radioMode := by
  obtain ⟨c, q, h | h⟩ := state_refill_shape g w s <;> rw [h]
  simp

@[simp] theorem refill_rfEn : (s.refill g w).rfEn = s.rfEn := by
  obtain ⟨c, q, h | h⟩ := state_refill_shape g w s <;> rw [h]
  simp

@[simp] theorem refill_log : (s.refill g w).log = s.log := by
  obtain ⟨c, q, h | h⟩ := state_refill_shape g w s <;> rw [h]
  simp

@[simp] theorem refill_edgeOut : (s.refill g w).edgeOut = s.edgeOut := by
  obtain ⟨c, q, h | h⟩ := state_refill_shape g w s <;> rw [h]
  simp

@[simp] theorem refill_radioLog : (s.refill g w).radioLog = s.radioLog := by
  obtain ⟨c, q, h | h⟩ := state_refill_shape g w s <;> rw [h]
  simp

@[simp] theorem refill_wave : (s.refill g w).wave = s.wave := by
  obtain ⟨c, q, h | h⟩ := state_refill_shape g w s <;> rw [h]
  simp

@[simp] theorem refill_resp : (s.refill g w).resp = s.resp := by
  obtain ⟨c, q, h | h⟩ := state_refill_shape g w s <;> rw [h]
  simp

@[simp] theorem refill_stimuli : (s.refill g w).stimuli = s.stimuli := by
  obtain ⟨c, q, h | h⟩ := state_refill_shape g w s <;> rw [h]
  simp

@[simp] theorem refill_draws : (s.refill g w).draws = s.draws := by
  obtain ⟨c, q, h | h⟩ := state_refill_shape g w s <;> rw [h]
  simp

/-- A refill that completes keeps a live state live. -/
theorem state_refill_live (hs : s.fatal = false) (h : ∃ n f', Machine.refill g w ⟨s.txc, s.src⟩ = .done n f') :
    (s.refill g w).fatal = false := by
  obtain ⟨n, f', e⟩ := h
  simp [State.refill, e, hs]

/-- Every refill of a state with a well-formed source completes (R208). -/
theorem refill_of_source (h : Safety.SourceWellFormed s) : ∃ n f', Machine.refill g w ⟨s.txc, s.src⟩ = .done n f' := by
  refine ⟨0, refill_live g w ⟨s.txc, s.src⟩ fun y hy => ?_⟩
  replace hy := List.mem_of_mem_take hy
  cases hp : s.txc.pendV
  · exact h.1 y (by simpa [upcoming, hp] using hy)
  · rcases (by simpa [upcoming, hp] using hy : y = s.txc.pendSym ∨ y ∈ s.src.script) with rfl | hy
    · exact h.2 hp
    · exact h.1 y hy

end OfState

end Sys2Proof.Laws.Refill
end

