-- ==== Sys2Proof/Laws/Transmit.lean ====
section
/-! SUPPORT. What the operations of the TransmitEngine can do, said once each: the parts of the update event and the
two commands that start and stop it (spec/42_transmit_engine.md R111, R126 to R131, R136). -/

namespace Sys2Proof.Laws.Transmit

open Sys2Proof.Machine
open Sys2Proof.Laws
open Sys2Proof.Laws.State
open Sys2Proof.Laws.Refill

variable (g : Tick) (s : State) (ctx : Word)

/-! ## The toggle output -/

/-- A zero reload toggles nothing (R129). -/
theorem toggleOutput_zero (h : s.txt.arr = 0) : toggleOutput s = s := by
  simp [toggleOutput, h]

/-- A reload that is not 0 toggles and opens a segment (R129). -/
theorem toggleOutput_nonzero (h : s.txt.arr ≠ 0) :
    toggleOutput s = { s with
      txt := { s.txt with outT := s.txt.outT.flip }
      wave := s.wave ++ [{ level := { s.txt with outT := s.txt.outT.flip }.pinLevel, ticks := s.txt.arr }] } :=
  if_neg h

@[simp] theorem toggleOutput_txt_rd : (toggleOutput s).txt.rd = s.txt.rd := by
  unfold toggleOutput; split <;> rfl
@[simp] theorem toggleOutput_txt_arr : (toggleOutput s).txt.arr = s.txt.arr := by
  unfold toggleOutput; split <;> rfl
@[simp] theorem toggleOutput_txt_en : (toggleOutput s).txt.en = s.txt.en := by
  unfold toggleOutput; split <;> rfl
@[simp] theorem toggleOutput_txt_dmaEn : (toggleOutput s).txt.dmaEn = s.txt.dmaEn := by
  unfold toggleOutput; split <;> rfl
@[simp] theorem toggleOutput_txt_pin : (toggleOutput s).txt.pin = s.txt.pin := by
  unfold toggleOutput; split <;> rfl
@[simp] theorem toggleOutput_txt_ieDma : (toggleOutput s).txt.ieDma = s.txt.ieDma := by
  unfold toggleOutput; split <;> rfl
@[simp] theorem toggleOutput_txt_ieUpd : (toggleOutput s).txt.ieUpd = s.txt.ieUpd := by
  unfold toggleOutput; split <;> rfl

/-! ## The DMA interrupt handler -/

/-- The handler refills a half, or does nothing (R128). -/
theorem dmaHandler_cases :
    (s.txt.rd = 128 ∧ dmaHandler g s = s.refill g .firstHalf) ∨
      (s.txt.rd = 0 ∧ dmaHandler g s = s.refill g .secondHalf) ∨
      (s.txt.rd ≠ 128 ∧ s.txt.rd ≠ 0 ∧ dmaHandler g s = s) := by
  unfold dmaHandler
  split
  · exact .inl ⟨‹_›, rfl⟩
  · split
    · exact .inr (.inl ⟨‹_›, rfl⟩)
    · exact .inr (.inr ⟨‹_›, ‹_›, rfl⟩)

/-- The handler is a refill of some window, or nothing. -/
theorem dmaHandler_shape : (∃ w, dmaHandler g s = s.refill g w) ∨ dmaHandler g s = s := by
  rcases dmaHandler_cases g s with ⟨_, h⟩ | ⟨_, h⟩ | ⟨_, _, h⟩
  · exact .inl ⟨_, h⟩
  · exact .inl ⟨_, h⟩
  · exact .inr h

@[simp] theorem dmaHandler_dstate : (dmaHandler g s).dstate = s.dstate := by
  rcases dmaHandler_shape g s with ⟨w, h⟩ | h <;> simp [h]
@[simp] theorem dmaHandler_reg : (dmaHandler g s).reg = s.reg := by
  rcases dmaHandler_shape g s with ⟨w, h⟩ | h <;> simp [h]
@[simp] theorem dmaHandler_lastFreqV : (dmaHandler g s).lastFreqV = s.lastFreqV := by
  rcases dmaHandler_shape g s with ⟨w, h⟩ | h <;> simp [h]
@[simp] theorem dmaHandler_lastFreq : (dmaHandler g s).lastFreq = s.lastFreq := by
  rcases dmaHandler_shape g s with ⟨w, h⟩ | h <;> simp [h]
@[simp] theorem dmaHandler_rx : (dmaHandler g s).rx = s.rx := by
  rcases dmaHandler_shape g s with ⟨w, h⟩ | h <;> simp [h]
@[simp] theorem dmaHandler_txAlloc : (dmaHandler g s).txAlloc = s.txAlloc := by
  rcases dmaHandler_shape g s with ⟨w, h⟩ | h <;> simp [h]
@[simp] theorem dmaHandler_txt : (dmaHandler g s).txt = s.txt := by
  rcases dmaHandler_shape g s with ⟨w, h⟩ | h <;> simp [h]
@[simp] theorem dmaHandler_radioMode : (dmaHandler g s).radioMode = s.radioMode := by
  rcases dmaHandler_shape g s with ⟨w, h⟩ | h <;> simp [h]
@[simp] theorem dmaHandler_rfEn : (dmaHandler g s).rfEn = s.rfEn := by
  rcases dmaHandler_shape g s with ⟨w, h⟩ | h <;> simp [h]
@[simp] theorem dmaHandler_log : (dmaHandler g s).log = s.log := by
  rcases dmaHandler_shape g s with ⟨w, h⟩ | h <;> simp [h]
@[simp] theorem dmaHandler_edgeOut : (dmaHandler g s).edgeOut = s.edgeOut := by
  rcases dmaHandler_shape g s with ⟨w, h⟩ | h <;> simp [h]
@[simp] theorem dmaHandler_radioLog : (dmaHandler g s).radioLog = s.radioLog := by
  rcases dmaHandler_shape g s with ⟨w, h⟩ | h <;> simp [h]
@[simp] theorem dmaHandler_wave : (dmaHandler g s).wave = s.wave := by
  rcases dmaHandler_shape g s with ⟨w, h⟩ | h <;> simp [h]
@[simp] theorem dmaHandler_resp : (dmaHandler g s).resp = s.resp := by
  rcases dmaHandler_shape g s with ⟨w, h⟩ | h <;> simp [h]
@[simp] theorem dmaHandler_stimuli : (dmaHandler g s).stimuli = s.stimuli := by
  rcases dmaHandler_shape g s with ⟨w, h⟩ | h <;> simp [h]
@[simp] theorem dmaHandler_draws : (dmaHandler g s).draws = s.draws := by
  rcases dmaHandler_shape g s with ⟨w, h⟩ | h <;> simp [h]

/-! ## The update handler -/

/-- What the handler can do (R131). -/
theorem updateHandler_cases :
    (s.txt.arr ≠ 0 ∧ updateHandler s = s) ∨
      (s.txt.arr = 0 ∧ s.dstate = .asyncTx ∧
        updateHandler s = { s with dstate := .asyncTxLast, txt := { s.txt with pin := .forcedLow } }) ∨
      (s.txt.arr = 0 ∧ s.dstate ≠ .asyncTx ∧
        updateHandler s = { s with dstate := .asyncTxEnd, txt := { s.txt with en := false } }) := by
  by_cases ha : s.txt.arr = 0
  · cases hd : s.dstate <;> simp [updateHandler, ha, hd]
  · exact .inl ⟨ha, if_neg ha⟩

/-! ## The update event -/

/-- The lines of R126 before the update handler. -/
def updateBody : State := dmaHandler g (toggleOutput (dmaTransfer s.silent))

/-- What `TX_UPDATE` can do (R126): it is ignored, or a refill in it is fatal, or the update handler ends it. -/
theorem txUpdate_cases :
    ((s.fatal = true ∨ s.txt.en = false) ∧ txUpdate g s = s.silent) ∨
      (s.fatal = false ∧ s.txt.en = true ∧ (updateBody g s).fatal = true ∧ txUpdate g s = updateBody g s) ∨
      (s.fatal = false ∧ s.txt.en = true ∧ (updateBody g s).fatal = false ∧
        txUpdate g s = updateHandler (updateBody g s)) := by
  rcases whenEnabled_cases s s.txt.en
      (fun s => let t := dmaHandler g (toggleOutput (dmaTransfer s)); if t.fatal then t else updateHandler t) with
    ⟨h, e⟩ | ⟨h1, h2, e⟩
  · exact .inl ⟨h, e⟩
  · right
    cases hb : (updateBody g s).fatal
    · exact .inr ⟨h1, h2, rfl, e.trans (by unfold updateBody at hb; simp [hb, updateBody])⟩
    · exact .inl ⟨h1, h2, rfl, e.trans (by unfold updateBody at hb; simp [hb, updateBody])⟩

/-- The elements of the state that the lines of R126 before the update handler do not write. -/
theorem updateBody_frame :
    (updateBody g s).dstate = s.dstate ∧ (updateBody g s).reg = s.reg ∧ (updateBody g s).lastFreqV = s.lastFreqV ∧
      (updateBody g s).lastFreq = s.lastFreq ∧ (updateBody g s).rx = s.rx ∧ (updateBody g s).txAlloc = s.txAlloc ∧
      (updateBody g s).radioMode = s.radioMode ∧ (updateBody g s).rfEn = s.rfEn ∧ (updateBody g s).log = s.log ∧
      (updateBody g s).edgeOut = s.edgeOut ∧ (updateBody g s).radioLog = s.radioLog ∧ (updateBody g s).resp = none ∧
      (updateBody g s).stimuli = s.stimuli ∧ (updateBody g s).draws = s.draws := by
  simp [updateBody]

/-- The timer after the lines of R126 before the update handler, but for the flip-flop. -/
theorem updateBody_txt :
    (updateBody g s).txt.arr = s.slot s.txt.rd.toNat ∧ (updateBody g s).txt.rd = s.txt.rd + 1 ∧
      (updateBody g s).txt.en = s.txt.en ∧ (updateBody g s).txt.dmaEn = s.txt.dmaEn ∧
      (updateBody g s).txt.pin = s.txt.pin ∧ (updateBody g s).txt.ieDma = s.txt.ieDma ∧
      (updateBody g s).txt.ieUpd = s.txt.ieUpd := by
  simp [updateBody, State.slot]

/-! ## Start -/

/-- The state after the pre-fill of R111. -/
def prefilled : State := (allocateTx ctx s.silent).refill g .prefill

/-- What `START_ASYNC_TX` can do (R111, R154, R168, R171). -/
theorem startAsyncTx_cases :
    (s.fatal = true ∧ startAsyncTx g ctx s = s.silent) ∨
      (s.fatal = false ∧ s.dstate ≠ .idle ∧ startAsyncTx g ctx s = s.silent.raiseFatal .startTxBadState) ∨
      (s.fatal = false ∧ s.dstate = .idle ∧ s.reg = .onlyRx ∧ startAsyncTx g ctx s = s.silent.respond 0) ∨
      (s.fatal = false ∧ s.dstate = .idle ∧ s.reg = .txRx ∧ (prefilled g s ctx).fatal = true ∧
        startAsyncTx g ctx s = prefilled g s ctx) ∨
      (s.fatal = false ∧ s.dstate = .idle ∧ s.reg = .txRx ∧ (prefilled g s ctx).fatal = false ∧
        startAsyncTx g ctx s = (armTx (prefilled g s ctx)).respond 1) := by
  cases hf : s.fatal
  · right
    by_cases hd : s.dstate = .idle
    · right
      cases hr : s.reg
      · exact .inl ⟨rfl, hd, rfl, by simp [startAsyncTx, whenLive, hf, hd, hr]⟩
      · right
        cases hp : (prefilled g s ctx).fatal
        · refine .inr ⟨rfl, hd, rfl, rfl, ?_⟩
          unfold prefilled at hp
          simp [startAsyncTx, whenLive, hf, hd, hr, hp, prefilled]
        · refine .inl ⟨rfl, hd, rfl, rfl, ?_⟩
          unfold prefilled at hp
          simp [startAsyncTx, whenLive, hf, hd, hr, hp, prefilled]
    · refine .inl ⟨rfl, hd, ?_⟩
      cases h : s.dstate <;> simp_all [startAsyncTx, whenLive]
  · exact .inl ⟨rfl, by simp [startAsyncTx, whenLive, hf]⟩

/-! ## Stop -/

/-- What `STOP_ASYNC_TX` writes from a transmit state (R136). -/
def stoppedTx : State :=
  { s.silent.radioToIdle with
    rfEn := false
    txt := { s.txt with en := false, dmaEn := false, ieDma := false, ieUpd := false, pin := .inert }
    txc := { s.txc with
      buf := []
      dutyH := Config.freeDuty .dutyHAtStop s.draws
      dutyL := Config.freeDuty .dutyLAtStop s.draws
      parity := Config.freeFlag .parityAtStop s.draws
      pendV := false }
    log := { valid := true, dutyH := s.txc.dutyH, dutyL := s.txc.dutyL }
    txAlloc := false
    dstate := .idle
    draws := s.draws + 1 }

/-- What `STOP_ASYNC_TX` can do (R136, R154, R171). -/
theorem stopAsyncTx_cases :
    (s.fatal = true ∧ stopAsyncTx s = s.silent) ∨
      (s.fatal = false ∧ s.dstate.transmits = false ∧ stopAsyncTx s = s.silent.raiseFatal .stopTxBadState) ∨
      (s.fatal = false ∧ s.dstate.transmits = true ∧ stopAsyncTx s = stoppedTx s) := by
  cases hf : s.fatal
  · cases ht : s.dstate.transmits
    · exact .inr (.inl ⟨rfl, rfl, by simp [stopAsyncTx, whenLive, hf, ht]⟩)
    · exact .inr (.inr ⟨rfl, rfl, by simp [stopAsyncTx, whenLive, hf, ht, stoppedTx]⟩)
  · exact .inl ⟨rfl, by simp [stopAsyncTx, whenLive, hf]⟩

end Sys2Proof.Laws.Transmit
end

