-- ==== Sys2Proof/Laws/Step.lean ====
section
/-! SUPPORT. What a step and a stimulus can do, said once (spec/30_encoding.md R69, R70, spec/43_driver_state_machine.md
R152). -/

namespace Sys2Proof.Laws.Step

open Sys2Proof.Machine
open Sys2Proof.Laws.State
open Sys2Proof.Laws.Capture
open Sys2Proof.Laws.Transmit

/-- What a step can do: nothing, run a stimulus, or meet an undefined `op`. -/
theorem step_cases {s t : State} (h : step s = .next t) :
    t = s ∨ (∃ i rest, exec i { s with stimuli := rest } = .next t) ∨ (∃ rest, t = raiseBadOp { s with stimuli := rest }) := by
  unfold step at h
  split at h
  · cases h; exact .inl rfl
  · split at h
    · exact .inr (.inl ⟨_, _, h⟩)
    · cases h; exact .inr (.inr ⟨_, rfl⟩)

/-- The induction over a step, once: an invariant that does not read the stimuli to come, that an undefined `op` keeps
and that every stimulus keeps, is kept by every step. -/
theorem step_keeps {P : State → Prop} (hstim : ∀ s rest, P s → P { s with stimuli := rest })
    (hbad : ∀ s, P s → P (raiseBadOp s)) (hexec : ∀ i s t, P s → exec i s = .next t → P t) :
    ∀ s t, P s → step s = .next t → P t := by
  intro s t hs h
  rcases step_cases h with rfl | ⟨i, rest, h⟩ | ⟨rest, rfl⟩
  · exact hs
  · exact hexec i _ t (hstim _ _ hs) h
  · exact hbad _ (hstim _ _ hs)

/-- Two states that agree on every element the invariants of Safety speak of. -/
structure DriverSame (s t : State) : Prop where
  d : t.dstate = s.dstate
  f : t.fatal = s.fatal
  fc : t.fcause = s.fcause
  en : t.rx.en = s.rx.en
  ie : t.rx.ieCc = s.rx.ieCc
  pin : t.rx.pin = s.rx.pin
  al : t.txAlloc = s.txAlloc
  txt : t.txt = s.txt
  txc : t.txc = s.txc
  rf : t.rfEn = s.rfEn
  rm : t.radioMode = s.radioMode

theorem DriverSame.silent (s : State) : DriverSame s s.silent := by
  constructor <;> rfl

/-- Everything a stimulus can do to the elements the invariants speak of: it leaves them, it is fatal before it writes
anything, or it is one of the four commands of the engines, `TX_UPDATE` or `RESET` doing its work. -/
theorem exec_cases {i : Instr} {s t : State} (h : exec i s = .next t) :
    DriverSame s t ∨ (s.fatal = false ∧ ∃ c, c ≠ .none ∧ t = s.silent.raiseFatal c) ∨
      (s.fatal = false ∧ s.dstate = .idle ∧ ∃ ctx, i = .startAsyncRx ctx ∧ t = State.radioToRx
        { s.silent with
          dstate := .asyncRx
          rx := { en := true, cnt := 0, ccrA := 0, ccrB := 0, delta := 0, ctx := ctx, pin := .capture, ieCc := true } }) ∨
      (s.fatal = false ∧ s.dstate = .asyncRx ∧ i = .stopAsyncRx ∧ t = { s.silent.radioToIdle with
        rx := { s.rx with en := false, ieCc := false, pin := .inert }
        dstate := .idle }) ∨
      (s.fatal = false ∧ s.dstate = .idle ∧ s.reg = .txRx ∧ ∃ ctx, i = .startAsyncTx ctx ∧
        ((prefilled Config.guardTime s ctx).fatal = true ∧ t = prefilled Config.guardTime s ctx ∨
        (prefilled Config.guardTime s ctx).fatal = false ∧ t = (armTx (prefilled Config.guardTime s ctx)).respond 1)) ∨
      (s.fatal = false ∧ s.txt.en = true ∧ i = .txUpdate ∧ 
        ((updateBody Config.guardTime s).fatal = true ∧ t = updateBody Config.guardTime s ∨
         (updateBody Config.guardTime s).fatal = false ∧ t = updateHandler (updateBody Config.guardTime s))) ∨
      (s.fatal = false ∧ s.dstate.transmits = true ∧ i = .stopAsyncTx ∧ t = stoppedTx s) ∨
      (i = .reset ∧ t = resetMachine s) := by
  cases i with
  | startAsyncRx ctx =>
    cases h
    rcases startAsyncRx_cases ctx s with ⟨_, e⟩ | ⟨h1, _, e⟩ | ⟨h1, h2, e⟩
    · exact .inl (e ▸ .silent s)
    · exact .inr (.inl ⟨h1, _, by simp, e⟩)
    · exact .inr (.inr (.inl ⟨h1, h2, _, rfl, e⟩))
  | stopAsyncRx =>
    cases h
    rcases stopAsyncRx_cases s with ⟨_, e⟩ | ⟨h1, _, e⟩ | ⟨h1, h2, e⟩
    · exact .inl (e ▸ .silent s)
    · exact .inr (.inl ⟨h1, _, by simp, e⟩)
    · exact .inr (.inr (.inr (.inl ⟨h1, h2, rfl, e⟩)))
  | startAsyncTx ctx =>
    cases h
    rcases startAsyncTx_cases Config.guardTime s ctx with ⟨_, e⟩ | ⟨h1, _, e⟩ | ⟨h1, h2, h3, e⟩ | ⟨h1, h2, h3, h4, e⟩ | ⟨h1, h2, h3, h4, e⟩
    · exact .inl (e ▸ .silent s)
    · exact .inr (.inl ⟨h1, _, by simp, e⟩)
    · refine .inl (e ▸ ?_)
      constructor <;> rfl
    · exact .inr (.inr (.inr (.inr (.inl ⟨h1, h2, h3, _, rfl, .inl ⟨h4, e⟩⟩))))
    · exact .inr (.inr (.inr (.inr (.inl ⟨h1, h2, h3, _, rfl, .inr ⟨h4, e⟩⟩))))
  | stopAsyncTx =>
    cases h
    rcases stopAsyncTx_cases s with ⟨_, e⟩ | ⟨h1, _, e⟩ | ⟨h1, h2, e⟩
    · exact .inl (e ▸ .silent s)
    · exact .inr (.inl ⟨h1, _, by simp, e⟩)
    · exact .inr (.inr (.inr (.inr (.inr (.inr (.inl ⟨h1, h2, rfl, e⟩))))))
  | isAsyncTxComplete =>
    cases h
    left
    cases hf : s.fatal <;> (simp only [isAsyncTxComplete, whenLive, hf]; constructor <;> rfl)
  | setFrequency hz =>
    cases h
    left
    cases hf : s.fatal <;> (simp only [setFrequency, whenLive, hf]; constructor <;> rfl)
  | isTxAllowed hz =>
    cases h
    left
    cases hf : s.fatal <;> (simp only [isTxAllowed, whenLive, hf]; constructor <;> rfl)
  | rxTick n =>
    cases h
    left
    cases hf : s.fatal <;> cases he : s.rx.en <;> (simp only [rxTick, whenEnabled, whenLive, hf, he]; constructor <;> rfl)
  | rxFall =>
    cases h
    left
    cases hf : s.fatal <;> cases he : s.rx.en <;> (simp only [rxFall, whenEnabled, whenLive, hf, he]; constructor <;> rfl)
  | rxRise =>
    cases h
    left
    cases hf : s.fatal <;> cases he : s.rx.en <;> (simp only [rxRise, whenEnabled, whenLive, hf, he]; constructor <;> rfl)
  | txUpdate =>
    cases h
    rcases txUpdate_cases Config.guardTime s with ⟨_, e⟩ | ⟨h1, h2, h3, e⟩ | ⟨h1, h2, h3, e⟩
    · exact .inl (e ▸ .silent s)
    · exact .inr (.inr (.inr (.inr (.inr (.inl ⟨h1, h2, rfl, .inl ⟨h3, e⟩⟩)))))
    · exact .inr (.inr (.inr (.inr (.inr (.inl ⟨h1, h2, rfl, .inr ⟨h3, e⟩⟩)))))
  | srcPush y =>
    cases h
    left
    cases hf : s.fatal <;> (simp only [srcPush, whenLive, hf]; constructor <;> rfl)
  | reset => cases h; exact .inr (.inr (.inr (.inr (.inr (.inr (.inr ⟨rfl, rfl⟩))))))

/-- What an undefined `op` can do to them (R69, R171). -/
theorem raiseBadOp_cases (s : State) : DriverSame s (raiseBadOp s) ∨ (s.fatal = false ∧ raiseBadOp s = s.silent.raiseFatal .badOp) := by
  cases hf : s.fatal
  · exact .inr ⟨rfl, by simp [raiseBadOp, whenLive, hf]⟩
  · refine .inl ?_
    simp only [raiseBadOp, whenLive, hf, if_true]
    exact .silent s

end Sys2Proof.Laws.Step
end

