-- ==== Sys2Proof/Tests/Slice0.lean ====
section
/-! SUPPORT. Small tests of the model, each from a vector of spec/95_test_vectors.md, and for every statement with
hypotheses a concrete state that meets all of them together. -/

namespace Sys2Proof.Tests

open Sys2Proof.Machine

set_option Elab.async false


/-! ## States for the tests -/

/-- Right after reset, with a transmission allowed. -/
def idleState : State := { State.reset with reg := .txRx }

/-- A reception in progress. -/
def receiving (cnt delta : Tick) : State :=
  { idleState with
    dstate := .asyncRx
    rx := { en := true, cnt := cnt, ccrA := delta, ccrB := 0, delta := delta, ctx := 7, pin := .capture, ieCc := true }
    radioLog := [.switchToRx]
    radioMode := .rx }

/-- The mode of the transmit pin in each state (R155). -/
def pinIn : DState → TxPin
  | .asyncTx => .toggle
  | .asyncTxLast => .forcedLow
  | .asyncTxEnd => .forcedLow
  | .idle => .inert
  | .asyncRx => .inert

/-- A transmission in progress, in `d`, about to load slot `rd` of `buf`, its source holding `script`. -/
def sending (d : DState) (rd : BitVec 8) (out : Level) (buf : Memory) (script : List Word) : State :=
  { idleState with
    dstate := d
    txAlloc := true
    txt := { rd := rd, arr := 1, en := decide (d ≠ .asyncTxEnd), dmaEn := true, outT := out, pin := pinIn d,
             ieDma := true, ieUpd := true }
    txc := { buf := buf, parity := false, dutyH := 400, dutyL := 1199, pendV := false, pendSym := 0, ctx := 9 }
    radioMode := .tx
    rfEn := true
    src := { script := script, calls := [] } }

/-- A fatal state. -/
def fatalState : State := { idleState with fatal := true, fcause := .stopRxBadState }

/-- The state after a stimulus. -/
def after (i : Instr) (s : State) : State :=
  match exec i s with
  | .next t => t
  | .fault _ => s
  | .refused _ => s

/-- `after` is what `exec` answers. -/
theorem exec_after (i : Instr) (s : State) : exec i s = .next (after i s) := by
  cases i <;> rfl

/-- The state after a step that takes the word `w`. -/
def afterWord (w : Nat) (s : State) : State :=
  match step (s.withFetchWord 40 w) with
  | .next t => t
  | .fault _ => s
  | .refused _ => s

/-- A context as `START_ASYNC_TX` hands it to the pre-fill, with a script. -/
def fresh (script : List Word) : Fill :=
  { ctx := { buf := [], parity := false, dutyH := 0, dutyL := 0, pendV := false, pendSym := 0, ctx := 9 }
    src := { script := script, calls := [] } }

/-- What a completed refill shows: the first slots of its window, the accumulators, the pulls and the words left. -/
def shown (slots : Nat) (w : Window) : FillEnd → Option (List (Option Tick) × Duty × Duty × Nat × List Word)
  | .done _ f =>
    some ((List.range slots).map fun j => Memory.lookup f.ctx.buf (w.base + j), f.ctx.dutyH, f.ctx.dutyL,
      f.src.calls.length, f.src.script)
  | .zeroDuration _ => none

/-! ## Well-formedness (R65, R69, R72) -/

theorem test_wellFormed_refuses_low_zero : (Instr.srcPush 0x40000000).wellFormed = false := by decide

theorem test_wellFormed_refuses_high_zero : (Instr.srcPush 0x80000000).wellFormed = false := by decide

theorem test_wellFormed_takes_wait_and_reset :
    (Instr.srcPush 0xC0000000).wellFormed = true ∧ (Instr.srcPush 0).wellFormed = true := by decide

theorem test_pseudo_refuses_long_symbol :
    (Pseudo.symH (2 ^ 30)).wellFormed = false ∧ (Pseudo.symL (2 ^ 30 - 1)).wellFormed = true := by decide

/-! ## Encodings (spec/95_test_vectors.md 2.1) -/

theorem test_decode_commands :
    decodeTableWord 40 0x0100000011 = some (.startAsyncRx 0x11) ∧
      decodeTableWord 40 0x02DEADBEEF = some .stopAsyncRx ∧
      decodeTableWord 40 0x0300000022 = some (.startAsyncTx 0x22) ∧
      decodeTableWord 40 0x0400000000 = some .stopAsyncTx ∧
      decodeTableWord 40 0x0500000000 = some .isAsyncTxComplete ∧
      decodeTableWord 40 0x0619DD1800 = some (.setFrequency 433920000) ∧
      decodeTableWord 40 0x0733C1F830 = some (.isTxAllowed 868350000) := by decide

theorem test_decode_events :
    decodeTableWord 40 0x80FFFFFFFF = some (.rxTick 4294967295) ∧
      decodeTableWord 40 0x8100000000 = some .rxFall ∧
      decodeTableWord 40 0x8200000000 = some .rxRise ∧
      decodeTableWord 40 0x83FFFFFFFF = some .txUpdate ∧
      decodeTableWord 40 0x8480000064 = some (.srcPush 0x80000064) ∧
      decodeTableWord 40 0xFF00000000 = some .reset := by decide

theorem test_decode_refuses_neighbours :
    decodeTableWord 40 0x0000000000 = none ∧ decodeTableWord 40 0x0800000000 = none ∧
      decodeTableWord 40 0x7F00000000 = none ∧ decodeTableWord 40 0x8500000000 = none ∧
      decodeTableWord 40 0xFE00000000 = none := by decide

theorem test_encode_set_frequency : encode (.setFrequency 433920000) = 0x0619DD1800#40 := by decide

theorem test_symbol_words :
    decodeSymbol 0x3FFFFFFF = .reset ∧ decodeSymbol 0x40000001 = .timed .low 1 ∧
      decodeSymbol 0x7FFFFFFF = .timed .low 1073741823 ∧ decodeSymbol 0x80000064 = .timed .high 100 ∧
      decodeSymbol 0xFFFFFFFF = .wait := by decide

theorem test_edge_words :
    EdgeEvent.word ⟨0, true, 100⟩ = 0x100000064#33 ∧ EdgeEvent.word ⟨0, false, 150⟩ = 0x000000096#33 ∧
      EdgeEvent.word ⟨0, true, 0xFFFFFFF0⟩ = 0x1FFFFFFF0#33 := by decide

theorem test_assemble_argument : assembleLine "IS_TX_ALLOWED 868350000 ; a comment" = some [.isTxAllowed 868350000] := by
  decide +kernel

theorem test_assemble_symbol : assembleLine "SYM_L 200" = some [.srcPush 0x400000C8] := by decide +kernel

theorem test_disassemble : disassemble (.startAsyncRx 0x11) = "START_ASYNC_RX 17" := by decide +kernel

/-! ## RegionPolicy (VR) -/

/-- The example table of spec/95_test_vectors.md. -/
def exampleTable : List (Nat × List Band) := [(3, [⟨433050000, 434790000⟩])]

theorem test_allowed_band_ends :
    allowedIn 3 exampleTable 433050000 = true ∧ allowedIn 3 exampleTable 433049999 = false ∧
      allowedIn 3 exampleTable 434790000 = true ∧ allowedIn 3 exampleTable 434790001 = false := by decide +kernel

theorem test_allowed_fails_open_only_off_the_table :
    allowedIn 4 exampleTable 0 = true ∧ allowedIn 4 [(4, [])] 433920000 = false := by decide +kernel

theorem test_setFrequency_answers_the_actual :
    (after (.setFrequency 5) idleState).resp = some (Config.radioTune 5) := by rfl

/-! ## CaptureEngine (VC) -/

theorem test_rxTick_wraps : (after (.rxTick 2) (receiving 0xFFFFFFFF 0)).rx.cnt = 1 := by decide +kernel

theorem test_rxFall_keeps_the_counter :
    (after .rxFall (receiving 100 3)).rx.cnt = 100 ∧
      (after .rxFall (receiving 100 3)).edgeOut = [⟨7, true, 100⟩] := by decide +kernel

theorem test_rxRise_subtracts_modulo :
    (after .rxRise (receiving 0x10 0xFFFFFFF0)).edgeOut = [⟨7, false, 0x20⟩] := by decide +kernel

theorem test_rxRise_stale_mark : (after .rxRise (receiving 4 5)).edgeOut = [⟨7, false, 0xFFFFFFFF⟩] := by decide +kernel

theorem test_startAsyncRx_zeroes :
    (after (.startAsyncRx 0x12) { receiving 9 9 with dstate := .idle }).rx =
      { en := true, cnt := 0, ccrA := 0, ccrB := 0, delta := 0, ctx := 0x12, pin := .capture, ieCc := true } := by
  decide +kernel

theorem test_stopAsyncRx_twice :
    (after .stopAsyncRx (receiving 1 1)).dstate = .idle ∧
      (after .stopAsyncRx (after .stopAsyncRx (receiving 1 1))).fcause.code = 2 := by decide +kernel

/-! ## The refill (T1 to T12, with the example guard time 999) -/

theorem test_refill_t1 :
    shown 5 .prefill (refill 999 .prefill (fresh [0x80000064, 0x400000C8, 0x8000012C, 0])) =
      some ([some 100, some 200, some 300, some 999, some 0], 400, 1199, 4, []) := by decide +kernel

theorem test_refill_t2 :
    shown 5 .prefill (refill 999 .prefill (fresh [0x40000032, 0x8000003C, 0])) =
      some ([some 999, some 50, some 60, some 999, some 0], 1059, 1049, 3, []) := by decide +kernel

theorem test_refill_t3 :
    shown 5 .prefill (refill 999 .prefill (fresh [0x8000000A, 0x80000014, 0x4000001E, 0])) =
      some ([some 10, some 999, some 20, some 30, some 0], 30, 1029, 4, []) := by decide +kernel

theorem test_refill_t6 :
    shown 2 .prefill (refill 999 .prefill (fresh [0x80000064, 0xC0000000, 0x40000005])) =
      some ([some 100, some 0], 100, 0, 2, [0x40000005]) := by decide +kernel

theorem test_refill_t7 :
    shown 5 .prefill (refill 999 .prefill (fresh [0x40000007, 0x40000008, 0])) =
      some ([some 999, some 7, some 999, some 8, some 0], 1998, 15, 3, []) := by decide +kernel

theorem test_refill_t8 :
    (match refill 999 .prefill (fresh [0x80000005, 0x40000000]) with
      | .done _ _ => none
      | .zeroDuration f => some (f.ctx.buf, f.ctx.dutyH, f.src.calls.length)) = some ([(0, 5)], 5, 2) := by
  decide +kernel

theorem test_refill_t10 :
    shown 3 .secondHalf (refill 999 .secondHalf (fresh [0x40000009, 0])) =
      some ([some 999, some 9, some 0], 999, 9, 2, []) := by decide +kernel

/-- The script of T9a: 127 symbols that alternate, then a `High` one that meets the odd slot 127, then a `Low` one. -/
def t9Script : List Word :=
  ((List.range 127).map fun k => (if k % 2 = 0 then 0x8000000A#32 else 0x4000000A#32) + BitVec.ofNat 32 k) ++
    [0x8000004D, 0x40000003]

/-- What T9a leaves. -/
def t9End : Fill := Laws.Refill.fillOf (refill 999 .firstHalf (fresh t9Script))

theorem test_refill_t9a :
    Memory.lookup t9End.ctx.buf 126 = some 136 ∧ Memory.lookup t9End.ctx.buf 127 = some 999 ∧
      t9End.ctx.pendV = true ∧ t9End.ctx.pendSym = 0x8000004D ∧ t9End.ctx.dutyH = 4672 ∧ t9End.ctx.dutyL = 5598 ∧
      t9End.src.calls.length = 128 := by decide +kernel

theorem test_refill_t9b :
    shown 3 .secondHalf (refill 999 .secondHalf t9End) = some ([some 77, some 3, some 0], 4749, 5601, 130, []) := by
  decide +kernel

/-! ## Start, update, poll and stop (VU, E0, P2) -/

theorem test_startAsyncTx_refused :
    (after (.startAsyncTx 0) { idleState with reg := .onlyRx }).resp = some 0 ∧
      (after (.startAsyncTx 0) { idleState with reg := .onlyRx }).src.calls = [] := by decide +kernel

theorem test_startAsyncTx_empty :
    (after (.startAsyncTx 4) { idleState with src := ⟨[0], []⟩ }).resp = some 1 ∧
      (after (.startAsyncTx 4) { idleState with src := ⟨[0], []⟩ }).txc.dutyH = 0 ∧
      (after (.startAsyncTx 4) { idleState with src := ⟨[0], []⟩ }).src.calls = [⟨4, 0⟩] ∧
      Memory.lookup (after (.startAsyncTx 4) { idleState with src := ⟨[0], []⟩ }).txc.buf 255 = some 0 := by
  decide +kernel

theorem test_txUpdate_plays :
    (after .txUpdate (sending .asyncTx 0 .low [(0, 100)] [])).wave = [⟨.high, 100⟩] ∧
      (after .txUpdate (sending .asyncTx 0 .low [(0, 100)] [])).txt.rd = 1 := by decide +kernel

theorem test_txUpdate_forced_low_still_toggles :
    (after .txUpdate (sending .asyncTxLast 5 .high [(5, 6)] [])).wave = [⟨.low, 6⟩] ∧
      (after .txUpdate (sending .asyncTxLast 5 .high [(5, 6)] [])).txt.outT = .low := by decide +kernel

theorem test_isAsyncTxComplete :
    (after .isAsyncTxComplete (sending .asyncTxLast 5 .low [] [])).resp = some 0 ∧
      (after .isAsyncTxComplete (sending .asyncTxEnd 5 .low [] [])).resp = some 1 := by decide +kernel

theorem test_stopAsyncTx_logs :
    (after .stopAsyncTx (sending .asyncTxEnd 6 .low [] [])).log = { valid := true, dutyH := 400, dutyL := 1199 } ∧
      (after .stopAsyncTx (sending .asyncTxEnd 6 .low [] [])).rfEn = false := by decide +kernel

theorem test_duty_cycle : DutyLog.dutyCycle 0 ⟨true, 400, 1199⟩ = 40000 / 1599 := by
  show (100 * ((400#64).toNat : Rat)) / ((1598 + 1 : Nat) : Rat) = 40000 / 1599
  norm_num

/-! ## The script, reset and the step -/

theorem test_srcPush_appends : (after (.srcPush 5) (sending .asyncTx 0 .low [] [4])).src.script = [4, 5] := by
  decide +kernel

theorem test_reset_leaves_fatal :
    (after .reset fatalState).fatal = false ∧ (after .reset fatalState).fcause = .none := by decide +kernel

theorem test_step_bad_op :
    (afterWord 0x0800000000 idleState).fcause.code = 5 ∧ (afterWord 0x0800000000 idleState).dstate = .idle := by
  decide +kernel

theorem test_step_runs_the_row : (afterWord 0x0100000011 State.reset).rx.ctx = 0x11 := by decide +kernel

theorem test_memory_keeps_the_form :
    Memory.write (Memory.write (Memory.write [] 7 1) 3 2) 7 4 = [(3, 2), (7, 4)] := by decide +kernel

/-! ## Witnesses: the hypotheses of every statement can be met -/

theorem witness_decodes : decode (encode (.rxTick 4294967295)) = .stimulus (.rxTick 4294967295) := by decide +kernel

/-- A symbol of each kind: a `Timed` one at the largest duration its word holds, and the two that have none. -/
theorem witness_symbols :
    (∀ l d, Symbol.timed .high 1073741823 = .timed l d → d.toNat < 2 ^ 30) ∧
      (∀ l d, Symbol.wait = .timed l d → d.toNat < 2 ^ 30) ∧ ∀ l d, Symbol.reset = .timed l d → d.toNat < 2 ^ 30 := by
  refine ⟨fun l d h => ?_, fun l d h => ?_, fun l d h => ?_⟩ <;> cases h
  decide

theorem witness_pseudo_duration : 1073741823 < 2 ^ 30 ∧ 0 < 2 ^ 30 := by decide +kernel

theorem witness_step_runs :
    (idleState.withFetchWord 40 0x8100000000).stimuli = [0x8100000000#40] ∧
      decode 0x8100000000#40 = .stimulus .rxFall ∧ idleState.stimuli = [] := by decide +kernel

theorem witness_undefined_op :
    idleState.fatal = false ∧ (idleState.withFetchWord 40 0x0800000000).stimuli = [0x0800000000#40] ∧
      (opOf 0x0800000000#40).toNat ∉ [0x01, 0x02, 0x03, 0x04, 0x05, 0x06, 0x07, 0x80, 0x81, 0x82, 0x83, 0x84, 0xFF] := by
  decide +kernel

theorem witness_fatal :
    fatalState.fatal = true ∧ Instr.rxFall ≠ .reset ∧
      (fatalState.withFetchWord 40 0).stimuli = [0#40] ∧ decode 0#40 = .undefinedOp 0 := by decide +kernel

/-- Both clauses of "fatal is sticky": a fatal state, and a live one that stays live. -/
theorem witness_sticky :
    (exec .rxFall fatalState = .next (after .rxFall fatalState) ∧ fatalState.fatal = true) ∧
      exec .rxFall idleState = .next (after .rxFall idleState) ∧ idleState.fatal = false ∧
        (after .rxFall idleState).fatal = false := by
  exact ⟨⟨exec_after _ _, rfl⟩, exec_after _ _, rfl, by decide +kernel⟩

theorem witness_disabled : idleState.rx.en = false ∧ idleState.txt.en = false := by decide +kernel

theorem witness_wrong_state :
    (receiving 0 0).fatal = false ∧ (receiving 0 0).dstate ≠ .idle ∧ idleState.fatal = false ∧
      idleState.dstate ≠ .asyncRx ∧ (receiving 0 0).dstate ≠ .asyncTx ∧ (receiving 0 0).dstate ≠ .asyncTxLast ∧
      (receiving 0 0).dstate ≠ .asyncTxEnd := by decide +kernel

/-- A live state, idle: the hypotheses of the commands that run in every state, of `SRC_PUSH`, and of the starts. -/
theorem witness_live_idle :
    idleState.fatal = false ∧ idleState.dstate = .idle ∧ idleState.reg = .txRx ∧
      ({ idleState with reg := .onlyRx } : State).reg = .onlyRx := by decide +kernel

theorem witness_receiving :
    (receiving 5 2).fatal = false ∧ (receiving 5 2).rx.en = true ∧ (receiving 5 2).dstate = .asyncRx := by
  decide +kernel

/-- The chain of a full period: rise, 100 ticks, fall, 150 ticks, rise. -/
theorem witness_full_period :
    ∃ b c d e f, 100 + 150 < 2 ^ 32 ∧ (receiving 5 2).fatal = false ∧ (receiving 5 2).rx.en = true ∧
      exec .rxRise (receiving 5 2) = .next b ∧ exec (.rxTick (BitVec.ofNat 32 100)) b = .next c ∧
      exec .rxFall c = .next d ∧ exec (.rxTick (BitVec.ofNat 32 150)) d = .next e ∧ exec .rxRise e = .next f :=
  ⟨_, _, _, _, _, by decide +kernel, rfl, rfl, exec_after _ _, exec_after _ _, exec_after _ _, exec_after _ _, exec_after _ _⟩

theorem witness_ticks_add :
    ∃ t u, exec (.rxTick 3) (receiving 5 2) = .next t ∧ exec (.rxTick 4) t = .next u :=
  ⟨_, _, exec_after _ _, exec_after _ _⟩

/-- A start whose script holds a zero duration, but beyond the `Reset` that ends the pre-fill. -/
theorem witness_start_tx :
    ∃ n f', ({ idleState with src := ⟨[0x80000064, 0, 0x40000000], []⟩ } : State).fatal = false ∧
      ({ idleState with src := ⟨[0x80000064, 0, 0x40000000], []⟩ } : State).dstate = .idle ∧
      ({ idleState with src := ⟨[0x80000064, 0, 0x40000000], []⟩ } : State).reg = .txRx ∧
      refill Config.guardTime .prefill ⟨{ idleState.txc with ctx := 3, dutyH := 0, dutyL := 0, pendV := false },
        ⟨[0x80000064, 0, 0x40000000], []⟩⟩ = .done n f' :=
  ⟨_, _, rfl, rfl, rfl, rfl⟩

theorem witness_start_tx_zero_duration :
    ∃ f', ({ idleState with src := ⟨[0x40000000, 0], []⟩ } : State).fatal = false ∧
      ({ idleState with src := ⟨[0x40000000, 0], []⟩ } : State).dstate = .idle ∧
      ({ idleState with src := ⟨[0x40000000, 0], []⟩ } : State).reg = .txRx ∧
      refill Config.guardTime .prefill
        ⟨{ idleState.txc with ctx := 3, dutyH := 0, dutyL := 0, pendV := false }, ⟨[0x40000000, 0], []⟩⟩ =
          .zeroDuration f' :=
  ⟨_, rfl, rfl, rfl, rfl⟩

theorem witness_is_complete :
    (sending .asyncTxEnd 0 .low [] []).fatal = false ∧ (sending .asyncTxEnd 0 .low [] []).dstate = .asyncTxEnd ∧
      idleState.dstate ≠ .asyncTxEnd := by decide +kernel

theorem witness_stop_tx :
    (sending .asyncTx 0 .low [] []).fatal = false ∧ (sending .asyncTx 0 .low [] []).dstate = .asyncTx ∧
      (sending .asyncTxLast 0 .low [] []).dstate = .asyncTxLast ∧
      (sending .asyncTxEnd 0 .low [] []).dstate = .asyncTxEnd := by decide +kernel

theorem witness_duty_sum : 0 < (0#64).toNat + (1#64).toNat := by decide +kernel

/-- A refill that completes, for every window. -/
theorem witness_refill_completes (w : Window) :
    ∃ f', refill Config.guardTime w (fresh [0x80000064, 0]) = .done 0 f' :=
  Laws.Refill.refill_live Config.guardTime w (fresh [0x80000064, 0]) fun y hy =>
    List.all_eq_true.1 (by decide +kernel) y (List.mem_of_mem_take hy)

/-- One that completes although a zero duration stands in the script, behind the `Reset` that ends it. -/
theorem witness_refill_before_zero (w : Window) :
    ∃ n f', refill Config.guardTime w (fresh [0x80000064, 0, 0x40000000]) = .done n f' := by
  cases w <;> exact ⟨_, _, rfl⟩

/-- Symbols that fill half a window, and a zero duration beyond as many of them as it has slots. -/
theorem witness_layout :
    ∀ y ∈ (Safety.upcoming (fresh (List.replicate 128 0x80000064 ++ [0x40000000]))).take Window.firstHalf.count,
      symbolWordWellFormed y = true :=
  List.all_eq_true.1 (by decide +kernel)

theorem witness_wait :
    Safety.upcoming (fresh []) = [] ∧ Safety.upcoming (fresh [0xC0000000, 5]) = 0xC0000000 :: [5] ∧
      decodeSymbol 0xC0000000 = .wait := by decide +kernel

theorem witness_reset_symbol :
    Safety.upcoming (fresh [0x80000064, 0, 7]) = [0x80000064] ++ 0 :: [7] ∧
      decodeSymbol 0x80000064 = .timed .high 100 ∧ (100 : Tick) ≠ 0 ∧ decodeSymbol 0 = .reset ∧
      2 * [0x80000064#32].length < Window.firstHalf.count := by decide +kernel

theorem witness_refill_zero_duration (w : Window) :
    ∃ f', refill Config.guardTime w (fresh [0x40000000]) = .zeroDuration f' := by
  cases w <;> exact ⟨_, rfl⟩

/-- A held symbol before a refill that completes. -/
theorem witness_held_before :
    ∃ f', refill Config.guardTime .secondHalf
        { fresh [0x40000003] with ctx := { (fresh []).ctx with pendV := true, pendSym := 0x8000004D } } = .done 0 f' ∧
      (0 : Tick) ≠ 77 ∧ decodeSymbol 0x8000004D = .timed .high 77 := by
  obtain ⟨f', h⟩ := Laws.Refill.refill_live Config.guardTime .secondHalf
    { fresh [0x40000003] with ctx := { (fresh []).ctx with pendV := true, pendSym := 0x8000004D } }
    fun y hy => List.all_eq_true.1 (by decide +kernel) y (List.mem_of_mem_take hy)
  exact ⟨f', h, by decide +kernel, by decide +kernel⟩

/-- A held symbol after a refill that completes: T9a, at the guard time of the machine. -/
theorem witness_held_after :
    (match refill Config.guardTime .firstHalf (fresh t9Script) with
      | .done _ f => f.ctx.pendV
      | .zeroDuration _ => false) = true := by decide +kernel

theorem witness_plays :
    (sending .asyncTx 126 .low [(126, 5)] []).fatal = false ∧ (sending .asyncTx 126 .low [(126, 5)] []).txt.en = true ∧
      (126#8) ≠ 127 ∧ (126#8) ≠ 255 ∧ (sending .asyncTx 126 .low [(126, 5)] []).slot 126 = 5 ∧ (5 : Tick) ≠ 0 := by
  decide +kernel

theorem witness_zero_handshake :
    (sending .asyncTx 128 .low [(128, 0)] []).fatal = false ∧ (sending .asyncTx 128 .low [(128, 0)] []).txt.en = true ∧
      (sending .asyncTx 128 .low [(128, 0)] []).slot 128 = 0 ∧
      (sending .asyncTxLast 0 .low [(0, 0)] []).fatal = false ∧ (sending .asyncTxLast 0 .low [(0, 0)] []).txt.en = true ∧
      (sending .asyncTxLast 0 .low [(0, 0)] []).slot 0 = 0 ∧ DState.asyncTxLast ≠ .asyncTx := by decide +kernel

/-- The half points: both windows, a value loaded that is 0 and one that is not, `AsyncTx` and `AsyncTxLast`. -/
theorem witness_half_points :
    (sending .asyncTx 127 .low [(127, 10)] [0x80000005, 0, 0x40000000]).fatal = false ∧
      (sending .asyncTx 127 .low [(127, 10)] [0x80000005, 0, 0x40000000]).txt.en = true ∧
      (sending .asyncTx 127 .low [(127, 10)] [0x80000005, 0, 0x40000000]).slot 127 ≠ 0 ∧
      (sending .asyncTx 255 .low [(255, 0)] []).slot 255 = 0 ∧
      (sending .asyncTxLast 255 .low [(255, 0)] []).slot 255 = 0 ∧
      (sending .asyncTx 127 .low [(127, 10)] [0x80000005, 0, 0x40000000]).txt.rd = 127 ∧
      (sending .asyncTx 255 .low [(255, 0)] []).txt.rd = 255 := by decide +kernel

/-- The refill of a half completes from a script that ends at a `Reset`, whatever follows it, and from an empty one. -/
theorem witness_half_refill (d : DState) (rd : BitVec 8) (buf : Memory) (w : Window) :
    (∃ n f', refill Config.guardTime w ⟨(sending d rd .low buf [0x80000005, 0, 0x40000000]).txc,
        (sending d rd .low buf [0x80000005, 0, 0x40000000]).src⟩ = .done n f') ∧
      ∃ n f', refill Config.guardTime w ⟨(sending d rd .low buf []).txc, (sending d rd .low buf []).src⟩ = .done n f' := by
  cases w <;> exact ⟨⟨_, _, rfl⟩, _, _, rfl⟩

/-- A zero duration at both half points, with a value loaded that is 0 and one that is not. -/
theorem witness_update_zero_duration :
    (sending .asyncTx 127 .low [(127, 0)] [0x40000000]).fatal = false ∧
      (sending .asyncTx 127 .low [(127, 0)] [0x40000000]).txt.en = true ∧
      (sending .asyncTx 127 .low [(127, 0)] [0x40000000]).txt.rd = 127 ∧
      (sending .asyncTx 127 .low [(127, 0)] [0x40000000]).slot 127 = 0 ∧
      (sending .asyncTx 255 .low [(255, 9)] [0x40000000]).fatal = false ∧
      (sending .asyncTx 255 .low [(255, 9)] [0x40000000]).txt.en = true ∧
      (sending .asyncTx 255 .low [(255, 9)] [0x40000000]).txt.rd = 255 ∧
      (sending .asyncTx 255 .low [(255, 9)] [0x40000000]).slot 255 = 9 := by decide +kernel

theorem witness_update_zero_duration_refill (rd : BitVec 8) (buf : Memory) (w : Window) :
    ∃ f', refill Config.guardTime w
      ⟨(sending .asyncTx rd .low buf [0x40000000]).txc, (sending .asyncTx rd .low buf [0x40000000]).src⟩ =
        .zeroDuration f' := by
  cases w <;> exact ⟨_, rfl⟩

theorem witness_zero_duration_first :
    (fresh [0x80000000, 0]).ctx.pendV = false ∧ (fresh [0x80000000, 0]).src.script = 0x80000000 :: [0] ∧
      symbolWordWellFormed 0x80000000 = false := by decide +kernel

/-- A transmission about to load two zero slots, the first of them slot `rd`. -/
def endingAt (rd : BitVec 8) : State :=
  sending .asyncTx rd .low (Memory.write (Memory.write [] rd.toNat 0) (rd + 1).toNat 0) [0x80000005, 0, 0x40000000]

/-- The `Timed` symbols of T8 before its zero duration, with a `Low` one that takes a guard; and as many `High` ones as
leave one slot of a half over. -/
theorem witness_zero_duration_later :
    Safety.upcoming (fresh [0x80000005, 0x40000000]) = [0x80000005] ++ 0x40000000 :: [] ∧
      decodeSymbol 0x80000005 = .timed .high 5 ∧ (5 : Tick) ≠ 0 ∧ symbolWordWellFormed 0x40000000 = false ∧
      (Safety.slotsOf Config.guardTime false ([0x80000005].map decodeSymbol)).length = 1 ∧
      (Safety.slotsOf Config.guardTime false ([0x40000009].map decodeSymbol)).length = 2 ∧
      Safety.upcoming (fresh (List.replicate 64 0x80000005 ++ [0x40000000])) =
        List.replicate 64 0x80000005 ++ 0x40000000 :: [] ∧
      (Safety.slotsOf Config.guardTime false ((List.replicate 64 0x80000005).map decodeSymbol)).length + 1 =
        Window.firstHalf.count := by decide +kernel

/-- Two zero slots in the middle of a half, at the end of each half, and on both sides of each half point. -/
theorem witness_two_zeros :
    ∀ rd ∈ [5#8, 126, 127, 254, 255], (endingAt rd).fatal = false ∧ (endingAt rd).txt.en = true ∧
      (endingAt rd).dstate = .asyncTx ∧ (endingAt rd).slot rd.toNat = 0 ∧ (endingAt rd).slot (rd + 1).toNat = 0 := by
  decide +kernel

theorem witness_two_zeros_refill (rd : BitVec 8) (w : Window) :
    ∃ n f', refill Config.guardTime w ⟨(endingAt rd).txc, (endingAt rd).src⟩ = .done n f' :=
  (witness_half_refill _ _ _ _).1

/-- Both clauses of the script: a pull from a script, and one from an empty script. -/
theorem witness_script : (fresh [4, 5]).src.script = 4 :: [5] ∧ (fresh []).src.script = [] := by decide +kernel

/-- A state that is in the middle of a reception meets R155. -/
theorem witness_driver : Safety.DriverInv (receiving 5 2) := by
  intro _
  constructor <;> decide

/-- So does a transmission, in each of its three states. -/
theorem witness_driver_sending (d : DState) (rd : BitVec 8) (l : Level) (h : d.transmits = true) :
    Safety.DriverOk (sending d rd l [] []) := by
  cases d
  · exact nomatch h
  · exact nomatch h
  all_goals constructor <;> simp [sending, idleState, State.reset, pinIn, DState.transmits]

/-- Live states for every clause of the pin: `AsyncTx` at each level, `AsyncTxLast` and `AsyncTxEnd`, `AsyncRx`. -/
theorem witness_carrier :
    Safety.DriverInv (sending .asyncTx 6 .low [] []) ∧ Safety.DriverInv (sending .asyncTx 7 .high [] []) ∧
      (sending .asyncTx 6 .low [] []).fatal = false ∧ (sending .asyncTx 7 .high [] []).fatal = false ∧
    (sending .asyncTxLast 6 .low [] []).fatal = false ∧ Safety.DriverInv (sending .asyncTxLast 6 .low [] []) ∧
      (sending .asyncTxEnd 6 .low [] []).fatal = false ∧ Safety.DriverInv (sending .asyncTxEnd 6 .low [] []) ∧
      (receiving 5 2).fatal = false ∧ (receiving 5 2).dstate = .asyncRx :=
  ⟨fun _ => witness_driver_sending _ _ _ rfl, fun _ => witness_driver_sending _ _ _ rfl, rfl, rfl, rfl,
    fun _ => witness_driver_sending _ _ _ rfl, rfl, fun _ => witness_driver_sending _ _ _ rfl, rfl, rfl⟩

theorem witness_steps :
    ∃ t, step ((receiving 5 2).withFetchWord 40 0x8100000000) = .next t :=
  ⟨_, exec_after .rxFall (receiving 5 2)⟩

theorem witness_buffer_and_written :
    Safety.BufferInv (sending .asyncTxEnd 6 .low [(3, 2), (7, 4)] []) ∧
      Safety.WrittenInv (sending .asyncTxEnd 6 .low [(3, 2), (7, 4)] []) :=
  ⟨by unfold Safety.BufferInv; decide +kernel, fun _ h => by revert h; decide +kernel⟩

theorem witness_heldInv :
    Safety.HeldInv { sending .asyncTx 6 .low [] [] with
      txc := { (sending .asyncTx 6 .low [] []).txc with pendV := true, pendSym := 0x8000004D } } :=
  fun _ _ => ⟨77, by decide +kernel, by decide +kernel⟩

theorem witness_toggleInv : Safety.ToggleInv (sending .asyncTx 5 .high [(5, 9)] []) := fun _ _ => by decide +kernel

theorem witness_causeInv : Safety.CauseInv fatalState ∧ Safety.CauseInv idleState := by
  constructor <;> unfold Safety.CauseInv <;> decide +kernel

/-- A transition, T2, and the stimulus that makes it. -/
theorem witness_transition :
    ∃ t, exec .stopAsyncRx (receiving 5 2) = .next t ∧ Instr.stopAsyncRx ≠ .reset ∧ t.dstate ≠ (receiving 5 2).dstate :=
  ⟨_, exec_after _ _, by decide +kernel, by decide +kernel⟩

/-- A stimulus that is none of those that the whole-machine statements name. -/
theorem witness_other_stimulus :
    ∃ t, exec .rxFall (receiving 5 2) = .next t ∧ Instr.rxFall ≠ .reset ∧ Instr.rxFall ≠ .txUpdate ∧
      Instr.rxFall ≠ .stopAsyncTx ∧ (∀ ctx, Instr.rxFall ≠ .startAsyncTx ctx) ∧ ∀ hz, Instr.rxFall ≠ .setFrequency hz :=
  ⟨_, exec_after _ _, by decide +kernel, by decide +kernel, by decide +kernel, by simp, by simp⟩

theorem witness_transmit_stimulus : ∃ t, exec .isAsyncTxComplete (sending .asyncTxEnd 6 .low [] []) = .next t :=
  ⟨_, exec_after _ _⟩

theorem witness_end :
    ∃ t, Safety.DriverOk (sending .asyncTxEnd 6 .low [] []) ∧ (sending .asyncTxEnd 6 .low [] []).dstate = .asyncTxEnd ∧
      exec .txUpdate (sending .asyncTxEnd 6 .low [] []) = .next t ∧ Instr.txUpdate ≠ .reset ∧
      Instr.txUpdate ≠ .stopAsyncTx :=
  ⟨_, witness_driver_sending _ _ _ rfl, rfl, exec_after _ _, by decide +kernel, by decide +kernel⟩

theorem witness_at_rest : idleState.atRest = true ∧ idleState.fatal = false ∧ Safety.DriverInv idleState := by
  refine ⟨by decide +kernel, rfl, fun _ => ?_⟩
  constructor <;> decide

end Sys2Proof.Tests
end

/-! ## The scope of a step (spec/00_scope.md R2, R7) -/

namespace Sys2Proof.Proofs.Step

open Sys2Proof.Machine

/-- R8, log 1. -/
theorem step_of_no_stimulus {s : State} (hs : s.stimuli = []) : step s = .next s := by
  simp only [step, hs]

/-- R2, R7. -/
theorem step_of_stimulus {s : State} {w : StimulusWord} {rest : List StimulusWord} {i : Instr}
    (hs : s.stimuli = w :: rest) (hw : decode w = .stimulus i) : step s = exec i { s with stimuli := rest } := by
  simp only [step, hs, hw]

/-- R69. -/
theorem step_of_undefinedOp {s : State} {w : StimulusWord} {rest : List StimulusWord} {op : BitVec 8}
    (hs : s.stimuli = w :: rest) (hw : decode w = .undefinedOp op) :
    step s = .next (raiseBadOp { s with stimuli := rest }) := by
  simp only [step, hs, hw]

/-- R7, R110, R212: every one of the 13 meanings runs to its end, so no stimulus faults, is refused or blocks. -/
theorem exec_has_next (i : Instr) (s : State) : ∃ t, exec i s = .next t := by
  cases i <;> exact ⟨_, rfl⟩

/-- Settles O8: one equation of `step` per case. -/
theorem stepRunsDecodedStimulus : Obligations.StepRunsDecodedStimulus :=
  ⟨fun _ _ _ _ hs hw => step_of_stimulus hs hw, fun _ hs => step_of_no_stimulus hs⟩

/-- Settles O10, by cases on the next word and on what it decodes to. -/
theorem everyStateHasANext : Obligations.EveryStateHasANext := by
  intro s
  cases hs : s.stimuli with
  | nil => exact ⟨s, step_of_no_stimulus hs⟩
  | cons w rest =>
    cases hw : decode w with
    | undefinedOp op => exact ⟨_, step_of_undefinedOp hs hw⟩
    | stimulus i =>
      obtain ⟨t, ht⟩ := exec_has_next i { s with stimuli := rest }
      exact ⟨t, (step_of_stimulus hs hw).trans ht⟩

end Sys2Proof.Proofs.Step

/-! ## What every step keeps of the fatal state and of the AsyncTxContext (spec/60_exceptions.md R170 to R172,
spec/20_memory.md R45, spec/42_transmit_engine.md R112 and R123) -/

namespace Sys2Proof.Proofs.Invariants

open Sys2Proof.Machine
open Sys2Proof.Laws
open Sys2Proof.Laws.State
open Sys2Proof.Laws.Refill
open Sys2Proof.Laws.Transmit
open Sys2Proof.Laws.Step
open Sys2Proof.Safety (BufferInv WrittenInv HeldInv CauseInv)

/-! ### The induction over a step -/

/-- Two states that agree on the fatal state, on the AsyncTxContext and on whether the timer runs: all that the
properties of this section read. -/
structure ContextSame (s t : State) : Prop where
  fatal : t.fatal = s.fatal
  fcause : t.fcause = s.fcause
  txc : t.txc = s.txc
  en : t.txt.en = s.txt.en

theorem ContextSame.of_driverSame {s t : State} (h : DriverSame s t) : ContextSame s t :=
  ⟨h.f, h.fc, h.txc, congrArg TxTimer.en h.txt⟩

/-- A property of the fatal state and the AsyncTxContext that each operation keeps from which the stimuli but `RESET`
are made. -/
structure KeptByParts (P : State → Prop) : Prop where
  same : ∀ {s t}, ContextSame s t → P s → P t
  raise : ∀ {s c}, c ≠ .none → P s → P (s.raiseFatal c)
  allocate : ∀ {s} ctx, P s → P (allocateTx ctx s)
  refill : ∀ {s} w, P s → P (s.refill Config.guardTime w)
  arm : ∀ {s ctx}, (prefilled Config.guardTime s ctx).fatal = false → P (prefilled Config.guardTime s ctx) →
    P (armTx (prefilled Config.guardTime s ctx))
  handler : ∀ {s}, P s → P (updateHandler s)
  stop : ∀ {s}, P s → P (stoppedTx s)

namespace KeptByParts

variable {P : State → Prop} (hP : KeptByParts P)

include hP

theorem of_silent {s : State} (hs : P s) : P s.silent := hP.same (by constructor <;> rfl) hs

theorem of_prefilled (ctx : Word) {s : State} (hs : P s) : P (prefilled Config.guardTime s ctx) :=
  hP.refill _ (hP.allocate ctx (hP.of_silent hs))

theorem of_updateBody {s : State} (hs : P s) : P (updateBody Config.guardTime s) := by
  have ht : P (toggleOutput (dmaTransfer s.silent)) := hP.same (by constructor <;> simp) hs
  unfold updateBody
  rcases dmaHandler_shape Config.guardTime (toggleOutput (dmaTransfer s.silent)) with ⟨w, e⟩ | e <;> rw [e]
  · exact hP.refill w ht
  · exact ht

theorem of_exec {i : Instr} {s t : State} (hi : i ≠ .reset) (h : exec i s = .next t) (hs : P s) : P t := by
  rcases exec_cases h with hd | ⟨-, c, hc, rfl⟩ | ⟨-, -, ctx, -, rfl⟩ | ⟨-, -, -, rfl⟩ |
    ⟨-, -, -, ctx, -, ⟨-, rfl⟩ | ⟨hf, rfl⟩⟩ | ⟨-, -, -, ⟨-, rfl⟩ | ⟨-, rfl⟩⟩ | ⟨-, -, -, rfl⟩ | ⟨rfl, -⟩
  · exact hP.same (.of_driverSame hd) hs
  · exact hP.raise hc (hP.of_silent hs)
  · exact hP.same (by constructor <;> rfl) hs
  · exact hP.same (by constructor <;> rfl) hs
  · exact hP.of_prefilled ctx hs
  · exact hP.same (by constructor <;> rfl) (hP.arm hf (hP.of_prefilled ctx hs))
  · exact hP.of_updateBody hs
  · exact hP.handler (hP.of_updateBody hs)
  · exact hP.stop hs
  · exact absurd rfl hi

theorem of_badOp {s : State} (hs : P s) : P (raiseBadOp s) := by
  rcases raiseBadOp_cases s with hd | ⟨-, e⟩
  · exact hP.same (.of_driverSame hd) hs
  · exact e ▸ hP.raise (by decide) (hP.of_silent hs)

/-- Such a property is kept by every step if `RESET` makes it hold. -/
theorem of_step (hreset : ∀ s, P (resetMachine s)) : ∀ s t, P s → step s = .next t → P t := by
  refine step_keeps (fun s rest => hP.same (by constructor <;> rfl)) (fun s => hP.of_badOp) fun i s t hs h => ?_
  by_cases hi : i = .reset
  · subst hi
    cases h
    exact hreset s
  · exact hP.of_exec hi h hs

end KeptByParts

/-- A property of `FATAL` and `FCAUSE` alone is kept if a fatal entry keeps it. -/
theorem KeptByParts.of_fatal {P : State → Prop}
    (same : ∀ {s t : State}, t.fatal = s.fatal → t.fcause = s.fcause → P s → P t)
    (raise : ∀ {s c}, c ≠ .none → P s → P (s.raiseFatal c)) : KeptByParts P where
  same h := same h.fatal h.fcause
  raise := raise
  allocate _ := same rfl rfl
  refill {s} w hs := by
    obtain ⟨c, q, e | e⟩ := state_refill_shape Config.guardTime w s <;> rw [e]
    · exact same (s := s) rfl rfl hs
    · exact raise (by decide) (same (s := s) rfl rfl hs)
  arm _ := same rfl rfl
  handler := same (updateHandler_fatal _) (updateHandler_fcause _)
  stop := same rfl rfl

/-! ### FATAL and FCAUSE -/

theorem causeInv_raiseFatal {s : State} {c : FatalCause} (hc : c ≠ .none) (hs : CauseInv s) :
    CauseInv (s.raiseFatal c) := by
  cases hf : s.fatal
  · simp [CauseInv, raiseFatal_live s c hf, hc]
  · rwa [raiseFatal_dead s c hf]

theorem causeInv_kept : KeptByParts CauseInv :=
  .of_fatal (fun hf hc hs => by rwa [CauseInv, hf, hc]) causeInv_raiseFatal

/-- Settles O51: the only write of `FATAL` or `FCAUSE` short of `RESET` is the fatal entry, which writes both. -/
theorem stepKeepsCauseWithFatal : Obligations.StepKeepsCauseWithFatal :=
  causeInv_kept.of_step fun _ => by simp [CauseInv, resetMachine, State.reset]

/-- What R170 and R172 leave of the fatal state of `s` in a later state `t`: once set it stays with its cause, and the
cause of a live state does not change while it is live. -/
def FatalFrom (s t : State) : Prop :=
  (s.fatal = true → t.fatal = true ∧ t.fcause = s.fcause) ∧ (s.fatal = false → t.fatal = false → t.fcause = s.fcause)

theorem fatalFrom_raiseFatal {s t : State} (c : FatalCause) (h : FatalFrom s t) : FatalFrom s (t.raiseFatal c) := by
  cases hf : t.fatal
  · have hs : s.fatal = false := by
      cases hs : s.fatal
      · rfl
      · exact absurd (h.1 hs).1 (by simp [hf])
    simp [FatalFrom, hs]
  · rwa [raiseFatal_dead t c hf]

/-- Settles O14: `FatalFrom s` holds of `s` itself, and every part of a stimulus keeps it. -/
theorem fatalIsSticky : Obligations.FatalIsSticky := by
  intro i s t h hi
  have kept : KeptByParts (FatalFrom s) :=
    .of_fatal (fun hf hc ht => by rwa [FatalFrom, hf, hc]) fun _ => fatalFrom_raiseFatal _
  exact kept.of_exec hi h ⟨fun hf => ⟨hf, rfl⟩, fun _ _ => rfl⟩

/-! ### The buffer and the held symbol -/

/-- A refill that ends live filled its window (R115, R122). -/
theorem refill_filled {w : Window} {s : State} (h : (s.refill Config.guardTime w).fatal = false) :
    ∃ f', Filled Config.guardTime w ⟨s.txc, s.src⟩ f' ∧
      s.refill Config.guardTime w = { s with txc := f'.ctx, src := f'.src } := by
  rcases state_refill_cases guardTime_ne_zero w s with hf | ⟨f', -, e⟩
  · exact hf
  · simp [e] at h

theorem bufferInv_refill {s : State} (w : Window) (hs : BufferInv s) : BufferInv (s.refill Config.guardTime w) := by
  rcases state_refill_cases guardTime_ne_zero w s with ⟨f', hf, e⟩ | ⟨f', hf, e⟩ <;> rw [e]
  · exact hf.wf hs
  · simpa [BufferInv] using hf.wf hs

theorem bufferInv_kept : KeptByParts BufferInv where
  same h hs := by rwa [BufferInv, h.txc]
  raise _ hs := by simpa [BufferInv] using hs
  allocate _ hs := hs
  refill := bufferInv_refill
  arm _ hs := hs
  handler hs := by simpa [BufferInv] using hs
  stop _ := Memory.wf_reset

theorem writtenInv_refill {s : State} (w : Window) (hs : WrittenInv s) :
    WrittenInv (s.refill Config.guardTime w) := by
  intro hlive hen k hk
  obtain ⟨f', hf, e⟩ := refill_filled hlive
  rw [e] at hlive hen ⊢
  by_cases hw : w.base ≤ k ∧ k < w.base + w.count
  · exact hf.inside k hw.1 hw.2
  · exact hf.outside k hw ▸ hs hlive hen k hk

/-- The pre-fill writes every slot before the timer starts (R112). -/
theorem prefilled_written {s : State} {ctx : Word} (h : (prefilled Config.guardTime s ctx).fatal = false) {k : Nat}
    (hk : k < Config.bufCap) : (Memory.lookup (prefilled Config.guardTime s ctx).txc.buf k).isSome = true := by
  obtain ⟨f', hf, e⟩ := refill_filled h
  rw [prefilled, e]
  exact hf.inside k (Nat.zero_le k) (by simpa [Window.base, Window.count] using hk)

theorem writtenInv_handler {s : State} (hs : WrittenInv s) : WrittenInv (updateHandler s) := by
  rcases updateHandler_cases s with ⟨-, e⟩ | ⟨-, -, e⟩ | ⟨-, -, e⟩ <;> rw [e]
  · exact hs
  · exact hs
  · exact fun _ hen => absurd hen (by simp)

theorem writtenInv_kept : KeptByParts WrittenInv where
  same h hs := by rwa [WrittenInv, h.fatal, h.en, h.txc]
  raise _ _ hlive := absurd hlive (by simp)
  allocate _ hs := hs
  refill := writtenInv_refill
  arm hlive _ _ _ _ hk := prefilled_written hlive hk
  handler := writtenInv_handler
  stop _ _ hen := absurd hen (by simp [stoppedTx])

/-- Settles O48: a refill keeps the canonical form and unlists no slot, the pre-fill lists every slot before the timer
starts, and the buffer is emptied only where the timer stops. -/
theorem stepKeepsBufferInvariants : Obligations.StepKeepsBufferInvariants := by
  intro s t hb hw h
  refine ⟨bufferInv_kept.of_step (fun _ => Memory.wf_reset) s t hb h, writtenInv_kept.of_step (fun s => ?_) s t hw h⟩
  exact fun _ hen => absurd hen (by simp [resetMachine, State.reset])

/-- Whatever was held before, a refill that ends live holds a `High` symbol or none (R123). -/
theorem heldInv_refill (s : State) (w : Window) : HeldInv (s.refill Config.guardTime w) := by
  intro hlive hv
  obtain ⟨f', hf, e⟩ := refill_filled hlive
  rw [e] at hv ⊢
  exact (hf.held hv).2

theorem heldInv_kept : KeptByParts HeldInv where
  same h hs := by rwa [HeldInv, h.fatal, h.txc]
  raise _ _ hlive := absurd hlive (by simp)
  allocate _ _ _ hv := absurd hv (by simp)
  refill w _ := heldInv_refill _ w
  arm _ hs := hs
  handler hs := by simpa [HeldInv] using hs
  stop _ _ hv := absurd hv (by simp [stoppedTx])

/-- Settles O49: only a refill holds a symbol, and only a `High` one. -/
theorem stepKeepsHeldSymbolHigh : Obligations.StepKeepsHeldSymbolHigh :=
  heldInv_kept.of_step fun _ _ hv => absurd hv (by simp [resetMachine, State.reset])

end Sys2Proof.Proofs.Invariants

/-! ## What a refill keeps of the source and of the held symbol (spec/42_transmit_engine.md R117, R118, R123) -/

namespace Sys2Proof.Proofs.RefillKeeps

open Sys2Proof.Machine
open Sys2Proof.Laws
open Sys2Proof.Laws.Refill

/-- A refill that completes leaves no slot of its window over and did all that `Filled` says. -/
theorem filled_of_refill {w : Window} {f f' : Fill} {n : Nat} (h : refill Config.guardTime w f = .done n f') :
    n = 0 ∧ Filled Config.guardTime w f f' := by
  rcases refill_cases guardTime_ne_zero w f with ⟨f1, e, hf⟩ | ⟨f1, e, -⟩ <;> rw [e] at h <;> cases h
  exact ⟨rfl, hf⟩

theorem stopped_of_refill {w : Window} {f f' : Fill} (h : refill Config.guardTime w f = .zeroDuration f') :
    Stopped w f f' := by
  rcases refill_cases guardTime_ne_zero w f with ⟨f1, e, -⟩ | ⟨f1, e, hf⟩ <;> rw [e] at h <;> cases h
  exact hf

/-- Settles O38: both endings of a refill pull alike, by the loop's own law. -/
theorem pullsAreBoundedAndInOrder : Obligations.PullsAreBoundedAndInOrder := by
  rintro w f f' (⟨n, h⟩ | h)
  · exact ⟨(filled_of_refill h).2.ctx, (filled_of_refill h).2.pulls⟩
  · exact ⟨(stopped_of_refill h).ctx, (stopped_of_refill h).pulls⟩

/-- A turn of the loop serves the held symbol before the source (R118). -/
theorem symbolAt_of_held {f : Fill} (k : Nat) (h : f.ctx.pendV = true) : symbolAt k f = decodeSymbol f.ctx.pendSym := by
  simp [symbolAt, Fill.nextSymbol, h]

/-- A symbol of the slot's own level takes the slot, without a guard (R121, R122). -/
theorem fillLoop_fits {g : Tick} {n k : Nat} {f : Fill} {d : Tick} (hs : symbolAt k f = .timed (lvl (parityOf k)) d)
    (hd : d ≠ 0) : fillLoop g (n + 1) k f = fillLoop g n (k + 1) ((taken k f).put k d) := by
  rw [fillLoop_succ, hs]
  simp only [hd, if_true, if_false]

/-- A `High` symbol that a completed refill takes first is in the window's first slot, an even one. -/
theorem refill_first_high {g : Tick} (hg : g ≠ 0) {w : Window} {f f' : Fill} {n : Nat} {d : Tick}
    (hs : symbolAt w.base f = .timed .high d) (hd : d ≠ 0) (h : refill g w f = .done n f') :
    Memory.lookup f'.ctx.buf w.base = some d := by
  obtain ⟨heven, -, -, hpos⟩ := window_even w
  obtain ⟨m, hm⟩ := Nat.exists_eq_succ_of_ne_zero (Nat.ne_of_gt hpos)
  have hlvl : lvl (parityOf w.base) = .high := by simp [parityOf_eq, heven, lvl]
  have hloop : fillLoop g w.count w.base f = fillLoop g m (w.base + 1) ((taken w.base f).put w.base d) := by
    rw [hm]
    exact fillLoop_fits (hlvl ▸ hs) hd
  obtain ⟨used, rest, hsum, hw, hn⟩ := fillLoop_wrote hg m (w.base + 1) ((taken w.base f).put w.base d)
  rw [refill, hloop] at h
  cases hr : fillLoop g m (w.base + 1) ((taken w.base f).put w.base d) with
  | zeroDuration f1 => simp [hr] at h
  | done left f1 =>
    obtain ⟨-, rfl⟩ : 0 = n ∧ f1.zeroFill left (w.base + w.count - left) = f' := by simpa [hr] using h
    have hleft := hn left f1 hr
    rw [hr] at hw
    rw [zeroFill_buf, Memory.lookup_zeroFill, if_neg (by omega)]
    exact (hw.outside w.base (by omega)).trans (by simp)

/-- Settles O39: the held symbol is the first that a refill takes, and `Filled.held` says what is held afterwards. -/
theorem heldSymbolIsNotLost : Obligations.HeldSymbolIsNotLost :=
  ⟨fun _ _ _ _ _ hv hsym hd h =>
    refill_first_high guardTime_ne_zero ((symbolAt_of_held _ hv).trans hsym) hd h,
  fun _ _ _ _ h => (filled_of_refill h).2.held⟩

end Sys2Proof.Proofs.RefillKeeps

/-! ## The update event at a half point (spec/42_transmit_engine.md R126 to R131) -/

namespace Sys2Proof.Proofs.HalfPoint

open Sys2Proof.Machine
open Sys2Proof.Laws
open Sys2Proof.Laws.State
open Sys2Proof.Laws.Refill
open Sys2Proof.Laws.Transmit
open Sys2Proof.Proofs.RefillKeeps

/-- The slot loaded is the last of a half, which is the window the DMA handler refills (R44, R128). -/
def AtHalf (s : State) (w : Window) : Prop :=
  (s.txt.rd = 127 ∧ w = .firstHalf) ∨ (s.txt.rd = 255 ∧ w = .secondHalf)

theorem updateBody_at_half {s : State} {w : Window} (g : Tick) (h : AtHalf s w) :
    updateBody g s = (toggleOutput (dmaTransfer s.silent)).refill g w := by
  rcases h with ⟨hrd, rfl⟩ | ⟨hrd, rfl⟩ <;> simp [updateBody, dmaHandler, hrd]

/-- At a half point, when the refill completes, the lines of R126 before the update handler are the transfer, the
toggle and that refill. -/
theorem updateBody_refilled {g : Tick} {s : State} {w : Window} {n : Nat} {f : Fill} (h : AtHalf s w)
    (hr : refill g w ⟨s.txc, s.src⟩ = .done n f) :
    updateBody g s = { toggleOutput (dmaTransfer s.silent) with txc := f.ctx, src := f.src } :=
  (updateBody_at_half g h).trans (state_refill_done (by simpa using hr))

/-- A live update event whose refill is not fatal goes on to the update handler (R126). -/
theorem txUpdate_of_live {g : Tick} {s : State} (hf : s.fatal = false) (hen : s.txt.en = true)
    (hb : (updateBody g s).fatal = false) : txUpdate g s = updateHandler (updateBody g s) := by
  rcases txUpdate_cases g s with ⟨h, -⟩ | ⟨-, -, h, -⟩ | ⟨-, -, -, e⟩
  · simp [hf, hen] at h
  · simp [hb] at h
  · exact e

variable (s : State)

@[simp] theorem updateHandler_txt_arr : (updateHandler s).txt.arr = s.txt.arr := by
  rcases updateHandler_cases s with ⟨-, e⟩ | ⟨-, -, e⟩ | ⟨-, -, e⟩ <;> rw [e]
@[simp] theorem updateHandler_txt_rd : (updateHandler s).txt.rd = s.txt.rd := by
  rcases updateHandler_cases s with ⟨-, e⟩ | ⟨-, -, e⟩ | ⟨-, -, e⟩ <;> rw [e]
@[simp] theorem updateHandler_txt_outT : (updateHandler s).txt.outT = s.txt.outT := by
  rcases updateHandler_cases s with ⟨-, e⟩ | ⟨-, -, e⟩ | ⟨-, -, e⟩ <;> rw [e]
@[simp] theorem updateHandler_txt_dmaEn : (updateHandler s).txt.dmaEn = s.txt.dmaEn := by
  rcases updateHandler_cases s with ⟨-, e⟩ | ⟨-, -, e⟩ | ⟨-, -, e⟩ <;> rw [e]
@[simp] theorem updateHandler_txt_ieDma : (updateHandler s).txt.ieDma = s.txt.ieDma := by
  rcases updateHandler_cases s with ⟨-, e⟩ | ⟨-, -, e⟩ | ⟨-, -, e⟩ <;> rw [e]
@[simp] theorem updateHandler_txt_ieUpd : (updateHandler s).txt.ieUpd = s.txt.ieUpd := by
  rcases updateHandler_cases s with ⟨-, e⟩ | ⟨-, -, e⟩ | ⟨-, -, e⟩ <;> rw [e]

theorem updateHandler_nonzero {s : State} (h : s.txt.arr ≠ 0) : updateHandler s = s := if_neg h

/-- The first zero reload (R131). -/
theorem updateHandler_first_zero {s : State} (h : s.txt.arr = 0) (hd : s.dstate = .asyncTx) :
    updateHandler s = { s with dstate := .asyncTxLast, txt := { s.txt with pin := .forcedLow } } := by
  simp [updateHandler, h, hd]

/-- A zero reload after the first (R131). -/
theorem updateHandler_next_zero {s : State} (h : s.txt.arr = 0) (hd : s.dstate ≠ .asyncTx) :
    updateHandler s = { s with dstate := .asyncTxEnd, txt := { s.txt with en := false } } := by
  rcases updateHandler_cases s with ⟨h0, -⟩ | ⟨-, hd', -⟩ | ⟨-, -, e⟩
  · exact absurd h h0
  · exact absurd hd' hd
  · exact e

/-- Settles O42: the body of the event is the transfer, the toggle and the refill of the half, `Filled` frames the other
half, and the two handlers split on whether the slot loaded is 0. -/
theorem txUpdateRefillsTheConsumedHalf : Obligations.TxUpdateRefillsTheConsumedHalf := by
  rintro s w hlive hen hhalf ⟨n, f', hr⟩
  obtain ⟨rfl, hfilled⟩ := filled_of_refill hr
  have hbody := updateBody_refilled hhalf hr
  have hframe := updateBody_frame Config.guardTime s
  have htxt := updateBody_txt Config.guardTime s
  have hfatal : (updateBody Config.guardTime s).fatal = false := by simp [hbody, hlive]
  refine ⟨updateHandler (updateBody Config.guardTime s), congrArg _ (txUpdate_of_live hlive hen hfatal), by simp [hfatal],
    by simp [hframe], by simp [htxt], by simp [htxt], by simp [hbody, hr], by simp [hbody, hfilled.ctx],
    fun k hk => ?_, fun hv => ?_, fun hv => ⟨?_, ?_, fun hd => ?_, fun hd => ?_⟩, ?_⟩
  · simpa [State.slot, hbody] using Memory.read_congr s.draws (hfilled.outside k hk)
  · have harr : (updateBody Config.guardTime s).txt.arr ≠ 0 := htxt.1 ▸ hv
    rw [updateHandler_nonzero harr]
    refine ⟨hframe.1, by simp [htxt, hen], by simp [htxt], ?_⟩
    rw [hbody, toggleOutput_nonzero (dmaTransfer s.silent) hv]
    exact ⟨rfl, rfl⟩
  · rw [updateHandler_txt_outT, hbody, toggleOutput_zero (dmaTransfer s.silent) hv]
    rfl
  · rw [updateHandler_wave, hbody, toggleOutput_zero (dmaTransfer s.silent) hv]
    rfl
  · rw [updateHandler_first_zero (htxt.1.trans hv) (hframe.1.trans hd)]
    simp [htxt, hen]
  · rw [updateHandler_next_zero (htxt.1.trans hv) (hframe.1 ▸ hd)]
    simp [htxt]
  · simp [hbody]

end Sys2Proof.Proofs.HalfPoint

/-! ## What each stimulus may write (spec/10_state.md R10, R14, R15, R34 to R36) -/

namespace Sys2Proof.Proofs.Frames

open Sys2Proof.Machine
open Sys2Proof.Laws.State
open Sys2Proof.Laws.Capture
open Sys2Proof.Laws.Transmit

/-- What a stimulus may make of a state: it is ignored, it is fatal before it writes anything, it only answers, or it
writes the elements its rule names. The values a receive stimulus writes into the capture registers, and a push into the
source, are left open: the statements below say only who writes. -/
inductive Writes (s : State) : Instr → State → Prop
  | ignored (i) : Writes s i s.silent
  | fatalEntry (i c) : Writes s i (s.silent.raiseFatal c)
  | answer (i v) : Writes s i (s.silent.respond v)
  | tune (hz r a) : Writes s (.setFrequency hz)
      (State.respond a { s.silent.radioSetFrequency hz with reg := r, lastFreq := a, lastFreqV := true })
  | startRx (ctx x) : Writes s (.startAsyncRx ctx) (State.radioToRx { s.silent with dstate := .asyncRx, rx := x })
  | stopRx (x) : Writes s .stopAsyncRx { s.silent.radioToIdle with rx := x, dstate := .idle }
  | tick (n x) : Writes s (.rxTick n) { s.silent with rx := x }
  | fall (d x) : Writes s .rxFall (State.emitEdge true d { s.silent with rx := x })
  | rise (d x) : Writes s .rxRise (State.emitEdge false d { s.silent with rx := x })
  | prefillFatal (ctx) : Writes s (.startAsyncTx ctx) (prefilled Config.guardTime s ctx)
  | startTx (ctx) : Writes s (.startAsyncTx ctx) ((armTx (prefilled Config.guardTime s ctx)).respond 1)
  | updateFatal : Writes s .txUpdate (updateBody Config.guardTime s)
  | update : Writes s .txUpdate (updateHandler (updateBody Config.guardTime s))
  | stopTx : Writes s .stopAsyncTx (stoppedTx s)
  | push (y q) : Writes s (.srcPush y) { s.silent with src := q }
  | reset : Writes s .reset (resetMachine s)

/-- A stimulus that is ignored while `FATAL = 1` writes what its effect on a live state writes. -/
theorem Writes.of_whenLive {i : Instr} {s : State} {f : State → State} (h : Writes s i (f s.silent)) :
    Writes s i (whenLive s f) := by
  rcases whenLive_cases s f with ⟨-, e⟩ | ⟨-, e⟩ <;> rw [e]
  · exact .ignored i
  · exact h

/-- An event that is ignored while its guard is false writes what its effect on an enabled state writes. -/
theorem Writes.of_whenEnabled {i : Instr} {s : State} {g : Bool} {f : State → State} (h : Writes s i (f s.silent)) :
    Writes s i (whenEnabled g s f) := by
  rcases whenEnabled_cases s g f with ⟨-, e⟩ | ⟨-, -, e⟩ <;> rw [e]
  · exact .ignored i
  · exact h

/-- Every stimulus writes no more than `Writes` says. -/
theorem exec_writes {i : Instr} {s t : State} (h : exec i s = .next t) : Writes s i t := by
  cases i <;> cases h
  case startAsyncRx ctx =>
    rcases startAsyncRx_cases ctx s with ⟨-, e⟩ | ⟨-, -, e⟩ | ⟨-, -, e⟩ <;> rw [e]
    exacts [.ignored _, .fatalEntry _ _, .startRx _ _]
  case stopAsyncRx =>
    rcases stopAsyncRx_cases s with ⟨-, e⟩ | ⟨-, -, e⟩ | ⟨-, -, e⟩ <;> rw [e]
    exacts [.ignored _, .fatalEntry _ _, .stopRx _]
  case startAsyncTx ctx =>
    rcases startAsyncTx_cases Config.guardTime s ctx with
      ⟨-, e⟩ | ⟨-, -, e⟩ | ⟨-, -, -, e⟩ | ⟨-, -, -, -, e⟩ | ⟨-, -, -, -, e⟩ <;> rw [e]
    exacts [.ignored _, .fatalEntry _ _, .answer _ _, .prefillFatal _, .startTx _]
  case stopAsyncTx =>
    rcases stopAsyncTx_cases s with ⟨-, e⟩ | ⟨-, -, e⟩ | ⟨-, -, e⟩ <;> rw [e]
    exacts [.ignored _, .fatalEntry _ _, .stopTx]
  case txUpdate =>
    rcases txUpdate_cases Config.guardTime s with ⟨-, e⟩ | ⟨-, -, -, e⟩ | ⟨-, -, -, e⟩ <;> rw [e]
    exacts [.ignored _, .updateFatal, .update]
  case isAsyncTxComplete => exact .of_whenLive (.answer _ _)
  case setFrequency hz => exact .of_whenLive (.tune hz _ _)
  case isTxAllowed hz => exact .of_whenLive (.answer _ _)
  case rxTick n => exact .of_whenEnabled (.tick n _)
  case rxFall => exact .of_whenEnabled (.fall _ _)
  case rxRise => exact .of_whenEnabled (.rise _ _)
  case srcPush y => exact .of_whenLive (.push y _)
  case reset => exact .reset

/-! ### The observation traces -/

/-- What `t` holds in the three traces begins with what `s` holds. -/
def TracesGrow (s t : State) : Prop := s.edgeOut <+: t.edgeOut ∧ s.radioLog <+: t.radioLog ∧ s.wave <+: t.wave

/-- An operation that writes no trace. -/
theorem tracesGrow_of_eq {s t : State} (he : t.edgeOut = s.edgeOut) (hr : t.radioLog = s.radioLog)
    (hw : t.wave = s.wave) : TracesGrow s t := by
  simp [TracesGrow, he, hr, hw]

theorem wave_prefix_toggleOutput (s : State) : s.wave <+: (toggleOutput s).wave := by
  by_cases h : s.txt.arr = 0
  · simp [toggleOutput_zero s h]
  · simp [toggleOutput_nonzero s h]

theorem tracesGrow_updateBody (g : Tick) (s : State) : TracesGrow s (updateBody g s) := by
  refine ⟨by simp [updateBody], by simp [updateBody], ?_⟩
  simpa [updateBody] using wave_prefix_toggleOutput (dmaTransfer s.silent)

/-- Settles O53: only the edges, the radio calls and the toggle write a trace, and each appends. -/
theorem tracesOnlyGrow : Obligations.TracesOnlyGrow := by
  intro i s t h hi
  change TracesGrow s t
  cases exec_writes h with
  | ignored | answer | tick | push => exact tracesGrow_of_eq rfl rfl rfl
  | fatalEntry => exact tracesGrow_of_eq (by simp) (by simp) (by simp)
  | prefillFatal => exact tracesGrow_of_eq (by simp [prefilled]) (by simp [prefilled]) (by simp [prefilled])
  | tune | startRx | stopRx | fall | rise => simp [TracesGrow]
  | startTx => simp [TracesGrow, prefilled]
  | stopTx => simp [TracesGrow, stoppedTx]
  | updateFatal => exact tracesGrow_updateBody _ s
  | update => simpa [TracesGrow] using tracesGrow_updateBody Config.guardTime s
  | reset => exact absurd rfl hi

/-! ### The regulation flag and the last frequency -/

/-- Settles O54: of the stimuli's writes, only those of `SET_FREQUENCY` and `RESET` reach the three registers. -/
theorem onlySetFrequencyTunes : Obligations.OnlySetFrequencyTunes := by
  intro i s t h hi hset
  cases exec_writes h with
  | tune hz => exact absurd rfl (hset hz)
  | reset => exact absurd rfl hi
  | ignored | answer | startRx | stopRx | tick | fall | rise | push | stopTx => exact ⟨rfl, rfl, rfl⟩
  | fatalEntry => simp
  | prefillFatal | startTx => simp [prefilled]
  | updateFatal | update => simp [updateBody]

/-! ### The two engines -/

/-- The receive stimuli leave the TransmitEngine as it was. -/
theorem receive_keeps_transmitEngine {i : Instr} {s t : State} (h : exec i s = .next t)
    (hi : (∃ ctx, i = .startAsyncRx ctx) ∨ i = .stopAsyncRx ∨ (∃ n, i = .rxTick n) ∨ i = .rxFall ∨ i = .rxRise) :
    t.txc = s.txc ∧ t.txt = s.txt ∧ t.txAlloc = s.txAlloc ∧ t.rfEn = s.rfEn ∧ t.log = s.log ∧ t.wave = s.wave ∧
      t.src = s.src := by
  cases exec_writes h with
  | ignored | fatalEntry | answer | startRx | stopRx | tick | fall | rise => simp
  | tune | prefillFatal | startTx | updateFatal | update | stopTx | push | reset => simp at hi

/-- The transmit stimuli leave the CaptureEngine as it was. -/
theorem transmit_keeps_captureEngine {i : Instr} {s t : State} (h : exec i s = .next t)
    (hi : (∃ ctx, i = .startAsyncTx ctx) ∨ i = .stopAsyncTx ∨ i = .isAsyncTxComplete ∨ i = .txUpdate) :
    t.rx = s.rx ∧ t.edgeOut = s.edgeOut := by
  cases exec_writes h with
  | ignored | answer | fatalEntry => simp
  | prefillFatal | startTx => simp [prefilled]
  | updateFatal | update => simp [updateBody]
  | stopTx => simp [stoppedTx]
  | tune | startRx | stopRx | tick | fall | rise | push | reset => simp at hi

/-- Settles O56: the two halves, each by what its stimuli may write. -/
theorem enginesAreIsolated : Obligations.EnginesAreIsolated :=
  fun _ _ _ h => ⟨receive_keeps_transmitEngine h, transmit_keeps_captureEngine h⟩

end Sys2Proof.Proofs.Frames

/-! ## The codes, the reset values and the outputs (spec/10_state.md R11 to R38, spec/70_reset_and_hazards.md R190) -/

namespace Sys2Proof.Proofs.Reset

open Sys2Proof.Machine
open Sys2Proof.Laws

/-- Settles O7, table by table. -/
theorem codesAreTheTables : Obligations.CodesAreTheTables := by
  refine ⟨?_, ?_, ?_, ?_, ?_, ?_, ?_⟩ <;> rfl

/-- Settles O11: the rows of R38 are the fields of `State.reset`. -/
theorem resetStateIsTheTable : Obligations.ResetStateIsTheTable := by
  simp [Obligations.ResetStateIsTheTable, State.reset]

/-- Settles O12: `resetMachine` is total and takes each specified value from `State.reset`. -/
theorem resetStimulusRestoresTheTable : Obligations.ResetStimulusRestoresTheTable :=
  fun s => ⟨resetMachine s, rfl, by simp [resetMachine, State.reset]⟩

/-- R155 right after reset: `Idle`, both engines off and the pins inert. -/
theorem driverOk_reset : Safety.DriverOk State.reset := by
  constructor <;> decide

/-- Settles O46: the buffer lists nothing, the timer is stopped, nothing is held and `FATAL = 0`. -/
theorem resetMeetsTheInvariant : Obligations.ResetMeetsTheInvariant where
  driver _ := driverOk_reset
  buffer := Memory.wf_reset
  written _ hen := absurd hen (by decide)
  held _ hv := absurd hv (by decide)
  toggle _ hd := absurd hd (by decide)
  cause := ⟨fun _ => rfl, fun _ => rfl⟩

end Sys2Proof.Proofs.Reset

namespace Sys2Proof.Proofs.Outputs

open Sys2Proof.Machine

/-- R31, where the sum of the numbers is not 0. -/
theorem dutyCycle_of_pos (k : Nat) {l : DutyLog} (h : 0 < l.dutyH.toNat + l.dutyL.toNat) :
    l.dutyCycle k = 100 * l.dutyH.toNat / (l.dutyH.toNat + l.dutyL.toNat : Nat) := by
  unfold DutyLog.dutyCycle
  split
  · omega
  · rename_i n hn
    rw [hn]

/-- Settles O31: the sum is not 0, so the division can be undone. -/
theorem dutyCycleIsTheExactRatio : Obligations.DutyCycleIsTheExactRatio := by
  intro k l h
  have hsum : ((l.dutyH.toNat + l.dutyL.toNat : Nat) : Rat) ≠ 0 := Nat.cast_ne_zero.2 (Nat.ne_of_gt h)
  rw [dutyCycle_of_pos k h, ← Nat.cast_add, div_mul_cancel₀ _ hsum]

/-- While `FATAL = 0` the radio sees `pin_level()` (R24, R170). -/
theorem shownPinLevel_of_live {s : State} (k : Nat) (h : s.fatal = false) : s.shownPinLevel k = s.txt.pinLevel := by
  simp only [State.shownPinLevel, h]

theorem pinLevel_toggle {t : TxTimer} (h : t.pin = .toggle) : t.pinLevel = PinLevel.driven t.outT := by
  simp only [TxTimer.pinLevel, h]

theorem pinLevel_forcedLow {t : TxTimer} (h : t.pin = .forcedLow) : t.pinLevel = .low := by
  simp only [TxTimer.pinLevel, h]

theorem pinLevel_inert {t : TxTimer} (h : t.pin = .inert) : t.pinLevel = .z := by
  simp only [TxTimer.pinLevel, h]

/-- R155's two lines on `TX_PIN` leave `Inert` for the states that do not transmit. -/
theorem pin_inert_of_driverOk {s : State} (hs : Safety.DriverOk s) (hd : s.dstate = .idle ∨ s.dstate = .asyncRx) :
    s.txt.pin = .inert := by
  have hdrive := hs.pinToggle
  have hforce := hs.pinForced
  cases hp : s.txt.pin with
  | inert => rfl
  | toggle => rcases hd with hd | hd <;> simp [hp, hd] at hdrive
  | forcedLow => rcases hd with hd | hd <;> simp [hp, hd] at hforce

/-- Settles O59: R155 fixes the mode of the pin in each `DSTATE`, and the mode fixes the level. -/
theorem carrierIsOffAfterTheFirstZero : Obligations.CarrierIsOffAfterTheFirstZero := by
  intro k s hlive hinv
  have hs := hinv hlive
  rw [shownPinLevel_of_live k hlive]
  refine ⟨fun hd => ?_, fun hd => pinLevel_forcedLow (hs.pinForced.2 hd),
    fun hd => pinLevel_inert (pin_inert_of_driverOk hs hd)⟩
  rw [pinLevel_toggle (hs.pinToggle.2 hd)]
  exact ⟨fun ho => by rw [ho]; rfl, fun ho => by rw [ho]; rfl⟩

end Sys2Proof.Proofs.Outputs

/-! ## What a refill writes, slot by slot (spec/20_memory.md R45, spec/42_transmit_engine.md R115 to R124) -/

namespace Sys2Proof.Proofs.Layout

open Sys2Proof.Machine
open Sys2Proof.Laws
open Sys2Proof.Laws.Refill
open Sys2Proof.Proofs.RefillKeeps
open Sys2Proof.Safety (upcoming layout)

/-! ### Values laid into a memory -/

/-- `m'` holds the values `vs` in the slots from `k` on, and reads as `m` below them. -/
structure Laid (k : Nat) (vs : List Tick) (m m' : Memory) : Prop where
  before : ∀ j, j < k → Memory.lookup m' j = Memory.lookup m j
  slots : ∀ j, j < vs.length → Memory.lookup m' (k + j) = vs[j]?

theorem Laid.nil (k : Nat) (m : Memory) : Laid k [] m m := ⟨fun _ _ => rfl, by simp⟩

/-- One value written before the rest. -/
theorem Laid.cons {k : Nat} {v : Tick} {vs : List Tick} {m m' : Memory}
    (h : Laid (k + 1) vs (Memory.write m k v) m') : Laid k (v :: vs) m m' where
  before j hj := (h.before j (by omega)).trans (Memory.lookup_write_other m v (by omega))
  slots j hj := by
    cases j with
    | zero => simpa using h.before k (by omega)
    | succ j =>
      rw [List.getElem?_cons_succ, ← h.slots j (by simpa using hj)]
      congr 1
      omega

/-- The zero fill (R124). -/
theorem Laid.zeros (n k : Nat) (m : Memory) : Laid k (List.replicate n 0) m (Memory.zeroFill n k m) where
  before j hj := by rw [Memory.lookup_zeroFill, if_neg (by omega)]
  slots j hj := by
    have hn : j < n := by simpa using hj
    rw [Memory.lookup_zeroFill, if_pos (by omega), List.getElem?_replicate, if_pos hn]

/-! ### The layout of the symbols to come -/

@[simp] theorem length_layout (g : Tick) (n : Nat) (odd : Bool) (ss : List Symbol) :
    (layout g n odd ss).length = n := by
  induction n, odd, ss using Safety.layout.induct <;> simp_all [layout]

/-- A symbol that is not `Wait` is the first of those to come. -/
theorem symbols_of_symbolAt {k : Nat} {f : Fill} (h : symbolAt k f ≠ .wait) :
    (upcoming f).map decodeSymbol = symbolAt k f :: (upcoming (taken k f)).map decodeSymbol := by
  rcases nextSymbol_upcoming (f.atSlot k) with ⟨-, hw, -⟩ | ⟨y, ys, hu, hy, hr⟩
  · exact absurd hw h
  · rw [upcoming_atSlot] at hu
    rw [hu, symbolAt, hy, taken, hr, List.map_cons]

/-- `Wait`, or nothing to come, leaves the rest of the request to the zero fill (R72, R119). -/
theorem layout_wait {k : Nat} {f : Fill} (g : Tick) (n : Nat) (odd : Bool) (h : symbolAt k f = .wait) :
    layout g (n + 1) odd ((upcoming f).map decodeSymbol) = List.replicate (n + 1) 0 := by
  rcases nextSymbol_upcoming (f.atSlot k) with ⟨hu, -, -⟩ | ⟨y, ys, hu, hy, -⟩ <;> rw [upcoming_atSlot] at hu
  · rw [hu, List.map_nil, layout]
  · rw [hu, List.map_cons, ← hy, show (f.atSlot k).nextSymbol.1 = .wait from h, layout]

theorem layout_reset {k : Nat} {f : Fill} (g : Tick) (n : Nat) (odd : Bool) (h : symbolAt k f = .reset) :
    layout g (n + 1) odd ((upcoming f).map decodeSymbol) = (if odd then g else 0) :: List.replicate n 0 := by
  rw [symbols_of_symbolAt (k := k) (by simp [h]), h, layout]

/-- A symbol of the slot's level takes the slot (R122). -/
theorem layout_fits {k : Nat} {f : Fill} {l : Level} {d : Tick} (g : Tick) (n : Nat) {odd : Bool}
    (h : symbolAt k f = .timed l d) (hl : l = lvl odd) :
    layout g (n + 1) odd ((upcoming f).map decodeSymbol) =
      d :: layout g n (!odd) ((upcoming (taken k f)).map decodeSymbol) := by
  rw [symbols_of_symbolAt (k := k) (by simp [h]), h]
  cases n <;> simp [layout, hl]

/-- A guard in the last slot of the request: its symbol is held (R123). -/
theorem layout_held {k : Nat} {f : Fill} {l : Level} {d : Tick} (g : Tick) {odd : Bool}
    (h : symbolAt k f = .timed l d) (hl : l ≠ lvl odd) :
    layout g 1 odd ((upcoming f).map decodeSymbol) = [g] := by
  rw [symbols_of_symbolAt (k := k) (by simp [h]), h]
  simp [layout, hl]

/-- A symbol of the other level takes a guard before it (R121). -/
theorem layout_guarded {k : Nat} {f : Fill} {l : Level} {d : Tick} (g : Tick) (n : Nat) {odd : Bool}
    (h : symbolAt k f = .timed l d) (hl : l ≠ lvl odd) :
    layout g (n + 2) odd ((upcoming f).map decodeSymbol) =
      g :: d :: layout g n odd ((upcoming (taken k f)).map decodeSymbol) := by
  rw [symbols_of_symbolAt (k := k) (by simp [h]), h]
  simp [layout, hl]

/-! ### The loop and the refill -/

/-- A loop that completes, with the zero fill of what it left, lays the symbols to come into its slots. -/
theorem fillLoop_laid (g : Tick) (left k : Nat) (f : Fill) {n : Nat} {f' : Fill}
    (h : fillLoop g left k f = .done n f') :
    Laid k (layout g left (parityOf k) ((upcoming f).map decodeSymbol)) f.ctx.buf
      (Memory.zeroFill n (k + left - n) f'.ctx.buf) := by
  revert n f'
  refine fillLoop_rule
    (P := fun left k f r => ∀ {n f'}, r = .done n f' →
      Laid k (layout g left (parityOf k) ((upcoming f).map decodeSymbol)) f.ctx.buf
        (Memory.zeroFill n (k + left - n) f'.ctx.buf)) ?zero ?wait ?resetOdd ?resetEven ?zeroDur ?hold ?fits ?guarded
    left k f
  case zero =>
    rintro k f _ _ ⟨⟩
    exact .nil k _
  case wait =>
    rintro n k f hs _ _ ⟨⟩
    rw [layout_wait g n _ hs, taken_buf, Nat.add_sub_cancel]
    exact .zeros (n + 1) k _
  case resetOdd =>
    rintro n k f hs hp m f' h
    obtain ⟨rfl, rfl⟩ := FillEnd.done.inj h
    rw [layout_reset g n _ hs, hp, if_pos rfl, put_buf, taken_buf, show k + (n + 1) - n = k + 1 by omega]
    exact .cons (.zeros n (k + 1) _)
  case resetEven =>
    rintro n k f hs hp m f' h
    obtain ⟨rfl, rfl⟩ := FillEnd.done.inj h
    rw [layout_reset g n _ hs, hp, if_neg Bool.false_ne_true, ← List.replicate_succ, taken_buf, Nat.add_sub_cancel]
    exact .zeros (n + 1) k _
  case zeroDur =>
    rintro n k f l - _ _ ⟨⟩
  case hold =>
    rintro k f l d hs - hl _ _ ⟨⟩
    rw [layout_held g hs hl, hold_buf, put_buf, taken_buf]
    exact .cons (.nil _ _)
  case fits =>
    intro n k f l d r hs _ hl ih m f' h
    have hrest := ih h
    rw [upcoming_put, put_buf, taken_buf, parityOf_succ, show k + 1 + n - m = k + (n + 1) - m by omega] at hrest
    rw [layout_fits g n hs hl]
    exact .cons hrest
  case guarded =>
    intro n k f l d r hs _ hl ih m f' h
    have hrest := ih h
    rw [upcoming_put, upcoming_put, put_buf, put_buf, taken_buf, parityOf_succ, parityOf_succ, Bool.not_not,
      show k + 2 + n - m = k + (n + 2) - m by omega] at hrest
    rw [layout_guarded g n hs hl]
    exact .cons (.cons hrest)

/-- A refill that completes holds in its window what `Safety.layout` makes of the symbols to come. -/
theorem refill_layout {g : Tick} {w : Window} {f f' : Fill} {n : Nat} (h : refill g w f = .done n f') {j : Nat}
    (hj : j < w.count) : Memory.lookup f'.ctx.buf (w.base + j) =
      (layout g w.count false ((upcoming f).map decodeSymbol))[j]? := by
  have heven : parityOf w.base = false := by simp [parityOf_eq, (window_even w).1]
  cases hr : fillLoop g w.count w.base f with
  | zeroDuration f1 => simp [refill, hr] at h
  | done left f1 =>
    obtain ⟨-, rfl⟩ : 0 = n ∧ f1.zeroFill left (w.base + w.count - left) = f' := by simpa [refill, hr] using h
    exact heven ▸ (fillLoop_laid g w.count w.base f hr).slots j (by simpa using hj)

/-- Settles O32: the window holds its layout by `refill_layout`, and the frame and the form are those of `Filled` and
`Stopped`. -/
theorem refillWritesExactlyItsWindow : Obligations.RefillWritesExactlyItsWindow := by
  refine ⟨fun w f f' n h => ?_, fun w f f' h => ?_⟩
  · obtain ⟨-, hfilled⟩ := filled_of_refill h
    refine ⟨fun j hj => ?_, fun e k hk => Memory.read_congr e (hfilled.outside k hk), hfilled.wf⟩
    obtain ⟨v, hv⟩ := Option.isSome_iff_exists.1 (hfilled.inside (w.base + j) (by omega) (by omega))
    exact ⟨v, (refill_layout h hj).symm.trans hv, hv⟩
  · have hstopped := stopped_of_refill h
    exact ⟨fun e k hk => Memory.read_congr e (hstopped.outside k hk), hstopped.wf⟩

end Sys2Proof.Proofs.Layout

/-! ## Who touches the sample buffer (spec/20_memory.md R42, R49, R52) -/

namespace Sys2Proof.Proofs.BufferFrame

open Sys2Proof.Machine
open Sys2Proof.Laws.State
open Sys2Proof.Proofs.Frames

/-- A slot reads as before when the context and the counter of the free values are as before (log 6, log 7). -/
theorem slot_congr {s t : State} (hc : t.txc = s.txc) (hd : t.draws = s.draws) (k : Nat) : t.slot k = s.slot k := by
  rw [State.slot, State.slot, hc, hd]

/-- Only the three transmit stimuli and `RESET` write the context or draw free values for it. -/
theorem context_kept {i : Instr} {s t : State} (h : exec i s = .next t) (hreset : i ≠ .reset) (hupdate : i ≠ .txUpdate)
    (hstop : i ≠ .stopAsyncTx) (hstart : ∀ ctx, i ≠ .startAsyncTx ctx) : t.txc = s.txc ∧ t.draws = s.draws := by
  cases exec_writes h with
  | ignored | answer | tune | startRx | stopRx | tick | fall | rise | push => exact ⟨rfl, rfl⟩
  | fatalEntry => simp
  | prefillFatal ctx | startTx ctx => exact absurd rfl (hstart ctx)
  | updateFatal | update => exact absurd rfl hupdate
  | stopTx => exact absurd rfl hstop
  | reset => exact absurd rfl hreset

/-- Settles O55: the context is kept, and with it what every slot reads as. -/
theorem onlyTheTransmitterTouchesTheBuffer : Obligations.OnlyTheTransmitterTouchesTheBuffer := by
  intro i s t h hreset hupdate hstop hstart
  obtain ⟨hc, hd⟩ := context_kept h hreset hupdate hstop hstart
  exact ⟨slot_congr hc hd, hc⟩

end Sys2Proof.Proofs.BufferFrame

/-! ## The stimulus words and the symbol words (spec/30_encoding.md R60 to R66, R69, R72) -/

namespace Sys2Proof.Proofs.Encoding

open Sys2Proof.Machine
open Sys2Proof.Laws.Encoding
open Sys2Proof.Laws.State
open Sys2Proof.Laws.Symbols
open Sys2Proof.Proofs.Step

/-! ### Stimulus words -/

/-- A word decodes to a stimulus exactly when it has the stimulus's `op`, and its `arg` where the row shows one (R62,
R63). -/
theorem decode_eq_stimulus_iff {w : StimulusWord} {i : Instr} :
    decode w = .stimulus i ↔ opOf w = opcode i ∧ (argument? i = none ∨ argument? i = some (argOf w)) := by
  constructor
  · intro h
    unfold decode at h
    split at h <;> cases h
    all_goals
      rename_i hop
      exact ⟨BitVec.eq_of_toNat_eq hop, by simp [argument?]⟩
  · rintro ⟨hop, harg⟩
    cases i with
    | startAsyncRx | startAsyncTx | setFrequency | isTxAllowed | rxTick | srcPush =>
      simpa [decode, hop, opcode, argument?, eq_comm] using harg
    | stopAsyncRx | stopAsyncTx | isAsyncTxComplete | rxFall | rxRise | txUpdate | reset => simp [decode, hop, opcode]

/-- R60, R62. -/
theorem encode_fields (i : Instr) : opOf (encode i) = opcode i ∧ argOf (encode i) = (argument? i).getD 0 :=
  ⟨opOf_append _ _, argOf_append _ _⟩

/-- Settles O1: the fields of an encoded word are those that its decoding asks for. -/
theorem decodeAndEncodeAgree : Obligations.DecodeAndEncodeAgree := by
  refine ⟨fun i => decode_eq_stimulus_iff.2 ?_, fun _ _ => decode_eq_stimulus_iff.1⟩
  obtain ⟨hop, harg⟩ := encode_fields i
  refine ⟨hop, ?_⟩
  cases ha : argument? i with
  | none => exact .inl rfl
  | some a => exact .inr (by rw [harg, ha, Option.getD_some])

/-- Settles O2, word by word. -/
theorem specWordsDecode : Obligations.SpecWordsDecode := by
  refine ⟨?_, ?_, ?_, ?_, ?_, ?_, ?_, ?_, ?_, ?_, ?_, ?_, ?_⟩ <;> rfl

/-- The values of `op` in the rows of R63. -/
def definedOps : List Nat := [0x01, 0x02, 0x03, 0x04, 0x05, 0x06, 0x07, 0x80, 0x81, 0x82, 0x83, 0x84, 0xFF]

/-- A word decodes to a stimulus if its `op` is in a row of the table, and is undefined if not (R63, R69). -/
theorem decode_cases (w : StimulusWord) :
    ((opOf w).toNat ∈ definedOps ∧ ∃ i, decode w = .stimulus i) ∨
      ((opOf w).toNat ∉ definedOps ∧ decode w = .undefinedOp (opOf w)) := by
  unfold decode
  split
  case h_14 => exact .inr ⟨by simp_all [definedOps], rfl⟩
  all_goals exact .inl ⟨by simp_all [definedOps], _, rfl⟩

/-- `s[39]` is `op[7]` (R60, R61). -/
theorem isEventWord_eq (w : StimulusWord) : isEventWord w = (opOf w).getLsbD 7 := by
  simp [isEventWord, opOf]

/-- R61, R63. -/
theorem isEvent_iff (i : Instr) : isEvent i = true ↔
    (∃ n, i = .rxTick n) ∨ i = .rxFall ∨ i = .rxRise ∨ i = .txUpdate ∨ (∃ y, i = .srcPush y) ∨ i = .reset := by
  cases i <;> simp [isEvent, opcode]

/-- Settles O3: `decode_cases` tells which words decode, and bit 39 of one that does is bit 7 of its stimulus's `op`. -/
theorem opcodeMapIsComplete : Obligations.OpcodeMapIsComplete := by
  refine ⟨fun w => ?_, fun w i h => ?_⟩
  · rcases decode_cases w with ⟨hmem, hi⟩ | ⟨hmem, he⟩
    · exact iff_of_true hi hmem
    · exact iff_of_false (by simp [he]) hmem
  · rw [isEventWord_eq, (decode_eq_stimulus_iff.1 h).1]
    exact isEvent_iff i

/-- An undefined `op` in a live state (R69, R170). -/
theorem raiseBadOp_live {s : State} (h : s.fatal = false) :
    raiseBadOp s = { s with resp := none, fatal := true, fcause := .badOp } :=
  (whenLive_live _ h).trans (raiseFatal_live _ _ h)

/-- Settles O9: such a word decodes to an undefined `op`, and the fatal entry of a live state writes `FATAL` and
`FCAUSE`. -/
theorem undefinedOpIsFatal : Obligations.UndefinedOpIsFatal := by
  intro s w rest hlive hs hop
  rcases decode_cases w with ⟨hmem, -⟩ | ⟨-, hw⟩
  · exact absurd hmem hop
  · exact (step_of_undefinedOp hs hw).trans (congrArg _ (raiseBadOp_live hlive))

/-! ### Symbol words -/

theorem durOf_eq (y : Word) : durOf y = BitVec.ofNat 32 (y.toNat % 2 ^ 30) :=
  BitVec.eq_of_toNat_eq (by rw [durOf_toNat, BitVec.toNat_ofNat]; omega)

/-- Settles O4: the ranges are those of the tag, and each kind of symbol has its inverse. -/
theorem symbolWordsDecode : Obligations.SymbolWordsDecode := by
  refine ⟨fun y => ?_, fun s hs => ?_⟩
  · rw [← durOf_eq]
    rcases decodeSymbol_cases y with ⟨ht, e⟩ | ⟨ht, e⟩ | ⟨ht, e⟩ | ⟨ht, e⟩ <;> rw [e]
    · rw [if_pos (by omega)]
    · rw [if_neg (by omega), if_pos (by omega)]
    · rw [if_neg (by omega), if_neg (by omega), if_pos (by omega)]
    · rw [if_neg (by omega), if_neg (by omega), if_neg (by omega)]
  · cases s with
    | timed l d => exact decode_encode_timed l d (hs l d rfl)
    | wait => exact decode_encode_wait
    | reset => exact decode_encode_reset

/-- A word with the tag of a level and a duration of 30 bits decodes to that `Timed` symbol (R64, R65). -/
theorem decodeSymbol_of_toNat {y : Word} {l : Level} {d : Nat} (hd : d < 2 ^ 30)
    (hy : y.toNat = (if l = .low then 2 ^ 30 else 2 ^ 31) + d) : decodeSymbol y = .timed l (BitVec.ofNat 32 d) := by
  have hdur : (BitVec.ofNat 32 d).toNat = d := by rw [BitVec.toNat_ofNat]; omega
  have hword : y = encodeSymbol (.timed l (BitVec.ofNat 32 d)) := by
    apply BitVec.eq_of_toNat_eq
    rw [hy, encode_timed_toNat, hdur, Nat.mod_eq_of_lt hd]
  rw [hword, decode_encode_timed _ _ (hdur.symm ▸ hd)]

/-- Settles O5: the words of the two `Timed` pseudo-stimuli are tag plus duration, the others are fixed. -/
theorem pseudoStimuliExpand : Obligations.PseudoStimuliExpand := by
  refine ⟨fun d hd => ⟨⟨_, rfl, decodeSymbol_of_toNat hd ?_⟩, ⟨_, rfl, decodeSymbol_of_toNat hd ?_⟩⟩,
    ⟨_, rfl, decode_encode_wait⟩, ⟨_, rfl, decode_encode_reset⟩, fun k => ⟨⟨_, rfl, decode_encode_reset⟩, rfl⟩⟩
  all_goals
    simp only [BitVec.toNat_add, BitVec.toNat_ofNat, reduceCtorEq, if_true, if_false]
    omega

/-- Settles O6: the two fields do not overlap. -/
theorem edgeWordCarriesTheEvent : Obligations.EdgeWordCarriesTheEvent := by
  intro e
  have hword : e.word.toNat = e.level.toNat * 2 ^ 32 + e.duration.toNat := by
    rw [EdgeEvent.word, BitVec.toNat_append, BitVec.toNat_ofBool, Nat.shiftLeft_eq, Nat.mul_comm,
      Nat.two_pow_add_eq_or_of_lt e.duration.isLt]
  rw [hword]
  cases e.level <;> simp

end Sys2Proof.Proofs.Encoding

/-! ## Guards, responses and the script (spec/30_encoding.md R68, R70, R72, spec/70_reset_and_hazards.md R191) -/

namespace Sys2Proof.Proofs.Responses

open Sys2Proof.Machine
open Sys2Proof.Laws.Capture
open Sys2Proof.Laws.State
open Sys2Proof.Laws.Symbols
open Sys2Proof.Laws.Transmit

/-! ### Events that are ignored -/

/-- A stimulus whose guard is false is an event, and it is ignored (R70). -/
theorem exec_of_guard_false {i : Instr} {s : State} (h : Machine.guard i s = false) : exec i s = .next s.silent := by
  cases i with
  | rxTick | rxFall | rxRise | txUpdate => exact congrArg _ (whenEnabled_ignored _ (.inr h))
  | startAsyncRx | stopAsyncRx | startAsyncTx | stopAsyncTx | isAsyncTxComplete | setFrequency | isTxAllowed |
    srcPush | reset => simp [Machine.guard] at h

/-- Settles O15: the two enable bits are the guards of the four events. -/
theorem disabledEventsAreIgnored : Obligations.DisabledEventsAreIgnored :=
  fun _ => ⟨fun h => ⟨fun _ => exec_of_guard_false h, exec_of_guard_false h, exec_of_guard_false h⟩,
    fun h => exec_of_guard_false h⟩

/-- At rest both engines are off (R155). -/
theorem engines_off_at_rest {s : State} (hrest : s.atRest = true) (hinv : Safety.DriverInv s) :
    s.rx.en = false ∧ s.txt.en = false := by
  obtain ⟨hlive, hd⟩ : s.fatal = false ∧ s.dstate = .idle := by simpa [State.atRest] using hrest
  have hrx := (hinv hlive).rxEn
  have htx := (hinv hlive).txEn
  simpa [hd] using And.intro hrx htx

/-- Settles O58: R155 puts out the guards of the four events at rest. -/
theorem atRestOnlyPushAndReset : Obligations.AtRestOnlyPushAndReset := by
  intro i s hrest hinv hi
  obtain ⟨hrx, htx⟩ := engines_off_at_rest hrest hinv
  rcases hi with ⟨n, rfl⟩ | rfl | rfl | rfl
  exacts [exec_of_guard_false hrx, exec_of_guard_false hrx, exec_of_guard_false hrx, exec_of_guard_false htx]

/-! ### Responses -/

/-- The four commands that answer (R68). -/
def Answers (i : Instr) : Prop :=
  (∃ ctx, i = .startAsyncTx ctx) ∨ i = .isAsyncTxComplete ∨ (∃ hz, i = .setFrequency hz) ∨ ∃ hz, i = .isTxAllowed hz

/-- `t` holds an answer of `i` from the live state `s` (R68). -/
def Answered (i : Instr) (s t : State) : Prop :=
  s.fatal = false ∧ t.fatal = false ∧ ∃ v, t.resp = some v ∧ ((∃ hz, i = .setFrequency hz) ∨ v = 0 ∨ v = 1)

/-- `t` holds no answer, and one of `s` and `t` is fatal. -/
def FatalNoAnswer (s t : State) : Prop := t.resp = none ∧ (s.fatal = true ∨ t.fatal = true)

theorem boolResponse_zero_or_one (b : Bool) : boolResponse b = 0 ∨ boolResponse b = 1 := by
  cases b
  · exact .inl rfl
  · exact .inr rfl

theorem whenLive_resp_none {s : State} {f : State → State} (h : (f s.silent).resp = none) :
    (whenLive s f).resp = none := by
  rcases whenLive_cases s f with ⟨-, e⟩ | ⟨-, e⟩ <;> rw [e]
  · rfl
  · exact h

theorem whenEnabled_resp_none {s : State} {g : Bool} {f : State → State} (h : (f s.silent).resp = none) :
    (whenEnabled g s f).resp = none := by
  rcases whenEnabled_cases s g f with ⟨-, e⟩ | ⟨-, -, e⟩ <;> rw [e]
  · rfl
  · exact h

/-- A stimulus that is none of the four commands answers nothing. -/
theorem resp_none_of_not_answers {i : Instr} {s t : State} (h : exec i s = .next t) (hi : ¬ Answers i) :
    t.resp = none := by
  cases i <;> cases h
  case startAsyncRx ctx =>
    rcases startAsyncRx_cases ctx s with ⟨-, e⟩ | ⟨-, -, e⟩ | ⟨-, -, e⟩ <;> simp [e]
  case stopAsyncRx =>
    rcases stopAsyncRx_cases s with ⟨-, e⟩ | ⟨-, -, e⟩ | ⟨-, -, e⟩ <;> simp [e]
  case stopAsyncTx =>
    rcases stopAsyncTx_cases s with ⟨-, e⟩ | ⟨-, -, e⟩ | ⟨-, -, e⟩ <;> simp [e, stoppedTx]
  case txUpdate =>
    rcases txUpdate_cases Config.guardTime s with ⟨-, e⟩ | ⟨-, -, -, e⟩ | ⟨-, -, -, e⟩ <;> simp [e, updateBody]
  case rxTick n => exact whenEnabled_resp_none rfl
  case rxFall => exact whenEnabled_resp_none rfl
  case rxRise => exact whenEnabled_resp_none rfl
  case srcPush y => exact whenLive_resp_none rfl
  case reset => rfl
  all_goals exact absurd (by simp [Answers]) hi

/-- A command without a precondition answers in every live state. -/
theorem answered_whenLive {i : Instr} {s : State} {f : State → State} {v : Word}
    (hf : (f s.silent).fatal = s.fatal) (hr : (f s.silent).resp = some v)
    (hv : (∃ hz, i = .setFrequency hz) ∨ v = 0 ∨ v = 1) :
    Answered i s (whenLive s f) ∨ FatalNoAnswer s (whenLive s f) := by
  rcases whenLive_cases s f with ⟨hs, e⟩ | ⟨hs, e⟩ <;> rw [e]
  · exact .inr ⟨rfl, .inl hs⟩
  · exact .inl ⟨hs, hf.trans hs, v, hr, hv⟩

/-- The four commands answer, unless they are ignored or fatal. -/
theorem answered_or_fatal {i : Instr} {s t : State} (h : exec i s = .next t) (hi : Answers i) :
    Answered i s t ∨ FatalNoAnswer s t := by
  rcases hi with ⟨ctx, rfl⟩ | rfl | ⟨hz, rfl⟩ | ⟨hz, rfl⟩ <;> cases h
  · rcases startAsyncTx_cases Config.guardTime s ctx with
      ⟨hs, e⟩ | ⟨hs, -, e⟩ | ⟨hs, -, -, e⟩ | ⟨hs, -, -, ht, e⟩ | ⟨hs, -, -, ht, e⟩ <;> rw [e]
    · exact .inr ⟨rfl, .inl hs⟩
    · exact .inr ⟨by simp, by simp⟩
    · exact .inl ⟨hs, hs, 0, rfl, .inr (.inl rfl)⟩
    · exact .inr ⟨by simp [prefilled], .inr ht⟩
    · exact .inl ⟨hs, ht, 1, rfl, .inr (.inr rfl)⟩
  · exact answered_whenLive rfl rfl (.inr (boolResponse_zero_or_one _))
  · exact answered_whenLive rfl rfl (.inl ⟨hz, rfl⟩)
  · exact answered_whenLive rfl rfl (.inr (boolResponse_zero_or_one _))

/-- Settles O60: a stimulus that is none of the four leaves no response, and each of the four answers or is fatal. -/
theorem responsesAreTheTable : Obligations.ResponsesAreTheTable := by
  intro i s t h
  change (_ ↔ _ ∧ _ ∧ Answers i) ∧ _
  by_cases hi : Answers i
  · rcases answered_or_fatal h hi with ⟨hs, ht, v, hr, hv⟩ | ⟨hr, hf⟩
    · refine ⟨by simp [hs, ht, hr, hi], fun hset u hu => ?_⟩
      obtain rfl : v = u := by simpa [hr] using hu
      exact hv.resolve_left fun ⟨hz, e⟩ => hset hz e
    · rcases hf with hf | hf <;> simp [hr, hf]
  · simp [resp_none_of_not_answers h hi, hi]

/-! ### The script -/

/-- The word an empty script answers (R72). -/
theorem decode_waitWord : decodeSymbol waitWord = .wait := decode_encode_wait

/-- Settles O45: a push in a live state, and the two cases of a pull. -/
theorem scriptIsAQueue : Obligations.ScriptIsAQueue := by
  refine ⟨fun y s hlive => congrArg _ (whenLive_live _ hlive), fun ctx q => ⟨fun y ys h => ?_, fun h => ?_⟩⟩
  · simp [SymbolSource.pull, h]
  · exact ⟨by simpa [SymbolSource.pull, h] using decode_waitWord, by simp [SymbolSource.pull, h]⟩

end Sys2Proof.Proofs.Responses

/-! ## RegionPolicy (spec/40_region_policy.md R80 to R82) -/

namespace Sys2Proof.Proofs.Region

open Sys2Proof.Machine
open Sys2Proof.Laws.State
open Sys2Proof.Proofs.Responses

theorem band_contains_iff (b : Band) (f : Word) :
    Band.contains b f = true ↔ b.lo.toNat ≤ f.toNat ∧ f.toNat ≤ b.hi.toNat := by
  simp [Band.contains]

/-- R80 for any region and table: a region off the table permits every frequency, a listed one those inside one of its
bands. -/
theorem allowedIn_iff (r : Nat) (table : List (Nat × List Band)) (f : Word) :
    allowedIn r table f = true ↔ ∀ bands, bandsOf r table = some bands →
      ∃ b ∈ bands, b.lo.toNat ≤ f.toNat ∧ f.toNat ≤ b.hi.toNat := by
  cases h : bandsOf r table with
  | none => simp [allowedIn, h]
  | some bands => simp [allowedIn, h, band_contains_iff]

theorem boolResponse_eq_one_iff (b : Bool) : boolResponse b = 1 ↔ b = true := by
  cases b <;> decide

theorem regulationFor_eq_txRx_iff (b : Bool) : regulationFor b = .txRx ↔ b = true := by
  cases b <;> decide

/-- Settles O17: a live `IS_TX_ALLOWED` only answers, and its answer is 1 where `allowed` holds. -/
theorem isTxAllowedResponds : Obligations.IsTxAllowedResponds := fun hz _ hlive =>
  ⟨boolResponse (allowed hz), congrArg _ (whenLive_live _ hlive), boolResponse_zero_or_one _,
    (boolResponse_eq_one_iff _).trans (allowedIn_iff _ _ hz)⟩

/-- Settles O18: a live `SET_FREQUENCY` makes the writes of R82, with the flag of the requested frequency. -/
theorem setFrequencyTunes : Obligations.SetFrequencyTunes := fun hz _ hlive =>
  ⟨regulationFor (allowed hz), congrArg _ (whenLive_live _ hlive), regulationFor_eq_txRx_iff _⟩

end Sys2Proof.Proofs.Region

/-! ## CaptureEngine (spec/41_capture_engine.md R92 to R98) -/

namespace Sys2Proof.Proofs.Capture

open Sys2Proof.Machine
open Sys2Proof.Laws.Capture
open Sys2Proof.Laws.State

/-! ### The two commands -/

/-- Settles O19: of the cases of `START_ASYNC_RX` a live state leaves the start and the fatal entry. -/
theorem startRxCompletes : Obligations.StartRxCompletes := by
  intro ctx s hlive
  rcases startAsyncRx_cases ctx s with ⟨hfatal, -⟩ | ⟨-, hd, e⟩ | ⟨-, hd, e⟩
  · simp [hlive] at hfatal
  · exact ⟨fun h => absurd h hd, fun _ => congrArg _ (e.trans (raiseFatal_live _ _ hlive))⟩
  · exact ⟨fun _ => congrArg _ e, fun h => absurd hd h⟩

/-- Settles O20: of the cases of `STOP_ASYNC_RX` a live state leaves the stop and the fatal entry. -/
theorem stopRxCompletes : Obligations.StopRxCompletes := by
  intro s hlive
  rcases stopAsyncRx_cases s with ⟨hfatal, -⟩ | ⟨-, hd, e⟩ | ⟨-, hd, e⟩
  · simp [hlive] at hfatal
  · exact ⟨fun h => absurd h hd, fun _ => congrArg _ (e.trans (raiseFatal_live _ _ hlive))⟩
  · exact ⟨fun _ => congrArg _ e, fun h => absurd hd h⟩

/-! ### The three events of a live reception -/

/-- The state after `RX_TICK n` (R94). -/
def counted (n : Word) (s : State) : State := { s.silent with rx := { s.rx with cnt := s.rx.cnt + n } }

/-- The state after `RX_FALL` (R95). -/
def fallen (s : State) : State := { s.silent with
  rx := { s.rx with ccrA := s.rx.cnt, delta := s.rx.cnt }
  edgeOut := s.edgeOut ++ [⟨s.rx.ctx, true, s.rx.cnt⟩] }

/-- The state after `RX_RISE` (R96). -/
def risen (s : State) : State := { s.silent with
  rx := { s.rx with ccrB := s.rx.cnt, cnt := 0 }
  edgeOut := s.edgeOut ++ [⟨s.rx.ctx, false, s.rx.cnt - s.rx.delta⟩] }

/-- The guard of the three events holds in a live state (R70, R171). -/
structure Receiving (s : State) : Prop where
  live : s.fatal = false
  enabled : s.rx.en = true

theorem ignored_or_receiving (s : State) : (s.fatal = true ∨ s.rx.en = false) ∨ Receiving s := by
  rcases whenEnabled_cases s s.rx.en id with ⟨h, -⟩ | ⟨hlive, hen, -⟩
  · exact .inl h
  · exact .inr ⟨hlive, hen⟩

section Events

variable {s : State} (hs : Receiving s)

include hs

theorem rxTick_of_receiving (n : Word) : rxTick n s = counted n s := whenEnabled_true _ hs.live hs.enabled

theorem exec_rxTick_of_receiving (n : Word) : exec (.rxTick n) s = .next (counted n s) :=
  congrArg _ (rxTick_of_receiving hs n)

theorem exec_rxFall_of_receiving : exec .rxFall s = .next (fallen s) :=
  congrArg _ (whenEnabled_true _ hs.live hs.enabled)

theorem exec_rxRise_of_receiving : exec .rxRise s = .next (risen s) :=
  congrArg _ (whenEnabled_true _ hs.live hs.enabled)

theorem receiving_counted (n : Word) : Receiving (counted n s) := ⟨hs.live, hs.enabled⟩

theorem receiving_fallen : Receiving (fallen s) := ⟨hs.live, hs.enabled⟩

theorem receiving_risen : Receiving (risen s) := ⟨hs.live, hs.enabled⟩

end Events

/-- Settles O21: the sum of two words is modulo 2^32. -/
theorem rxTickCounts : Obligations.RxTickCounts := fun n _ hlive hen =>
  ⟨_, exec_rxTick_of_receiving ⟨hlive, hen⟩ n, BitVec.toNat_add _ _⟩

/-- Settles O22: the guard of the fall holds. -/
theorem rxFallReportsMark : Obligations.RxFallReportsMark := fun _ hlive hen =>
  exec_rxFall_of_receiving ⟨hlive, hen⟩

/-- Settles O23: the difference of two words is modulo 2^32. -/
theorem rxRiseReportsSpace : Obligations.RxRiseReportsSpace := fun _ hlive hen =>
  ⟨_, exec_rxRise_of_receiving ⟨hlive, hen⟩, by rw [BitVec.toNat_sub, Nat.add_comm]⟩

/-! ### A full period -/

/-- The first rise zeroes the counter, so the fall latches `m` and the second rise captures `m + s`: their difference is
the space (R97). -/
theorem edgeOut_of_full_period (m s : Tick) (a : State) :
    (risen (counted s (fallen (counted m (risen a))))).edgeOut =
      (risen a).edgeOut ++ [⟨a.rx.ctx, true, m⟩, ⟨a.rx.ctx, false, s⟩] := by
  have hspace : m + s - m = s := by rw [BitVec.add_comm, BitVec.add_sub_cancel]
  simp [risen, counted, fallen, hspace]

/-- A stimulus has one next state, so what holds of the one found holds of it. -/
theorem receiving_next {i : Instr} {s t u : State} (ht : exec i s = .next t) (hu : exec i s = .next u)
    (h : Receiving u) : t = u ∧ Receiving t := by
  have e : t = u := Host.Outcome.next.inj (ht.symm.trans hu)
  exact ⟨e, e ▸ h⟩

/-- Settles O24: all five events find the reception live, so they end in the state of `edgeOut_of_full_period`. -/
theorem fullPeriodIsReported : Obligations.FullPeriodIsReported := by
  intro m s a b c d e f _ hlive hen hab hbc hcd hde hef
  have ra : Receiving a := ⟨hlive, hen⟩
  obtain ⟨hb, rb⟩ := receiving_next hab (exec_rxRise_of_receiving ra) (receiving_risen ra)
  obtain ⟨hc, rc⟩ := receiving_next hbc (exec_rxTick_of_receiving rb _) (receiving_counted rb _)
  obtain ⟨hd, rd⟩ := receiving_next hcd (exec_rxFall_of_receiving rc) (receiving_fallen rc)
  obtain ⟨he, re⟩ := receiving_next hde (exec_rxTick_of_receiving rd _) (receiving_counted rd _)
  obtain ⟨hf, -⟩ := receiving_next hef (exec_rxRise_of_receiving re) (receiving_risen re)
  rw [hf, he, hd, hc, hb]
  exact edgeOut_of_full_period _ _ _

/-! ### Ticks without an edge -/

theorem counted_counted (a b : Word) (s : State) : counted b (counted a s) = counted (a + b) s := by
  simp [counted, State.silent, BitVec.add_assoc]

/-- Either both ticks are ignored, as their sum is, or both count (R70, R94). -/
theorem rxTick_rxTick (a b : Word) (s : State) : rxTick b (rxTick a s) = rxTick (a + b) s := by
  rcases ignored_or_receiving s with h | hs
  · calc rxTick b (rxTick a s) = rxTick b s.silent := congrArg _ (whenEnabled_ignored _ h)
      _ = s.silent := whenEnabled_ignored _ h
      _ = rxTick (a + b) s := (whenEnabled_ignored _ h).symm
  · calc rxTick b (rxTick a s) = rxTick b (counted a s) := congrArg _ (rxTick_of_receiving hs a)
      _ = counted b (counted a s) := rxTick_of_receiving (receiving_counted hs a) b
      _ = counted (a + b) s := counted_counted a b s
      _ = rxTick (a + b) s := (rxTick_of_receiving hs _).symm

/-- Settles O25: two ticks are one in every state, and each of them has one next state. -/
theorem ticksAdd : Obligations.TicksAdd := by
  intro a b s t u hst htu
  cases hst
  cases htu
  exact congrArg _ (rxTick_rxTick a b s).symm

end Sys2Proof.Proofs.Capture

/-! ## The phase of the toggle output (spec/42_transmit_engine.md R116, R129, R131) -/

namespace Sys2Proof.Proofs.TogglePhase

open Sys2Proof.Machine
open Sys2Proof.Laws.State
open Sys2Proof.Laws.Transmit
open Sys2Proof.Laws.Step
open Sys2Proof.Safety (ToggleInv)

theorem flip_eq_high_iff (l : Level) : l.flip = .high ↔ l ≠ .high := by
  cases l <;> decide

/-- The read index changes parity at every transfer, also where it wraps from 255 to 0 (R44). -/
theorem odd_succ_iff (rd : BitVec 8) : (rd + 1).toNat % 2 = 1 ↔ ¬ rd.toNat % 2 = 1 := by
  have hsum : (rd + 1).toNat = (rd.toNat + 1) % 256 := BitVec.toNat_add rd 1
  omega

theorem updateBody_outT (g : Tick) {s : State} (h : s.slot s.txt.rd.toNat ≠ 0) :
    (updateBody g s).txt.outT = s.txt.outT.flip := by
  rw [updateBody, dmaHandler_txt, toggleOutput_nonzero (dmaTransfer s.silent) h]
  rfl

/-- The invariant speaks of live states in `AsyncTx` alone. -/
theorem toggleInv_of_dstate {s : State} (h : s.dstate ≠ .asyncTx) : ToggleInv s := fun _ hd => absurd hd h

theorem toggleInv_of_fatal {s : State} (h : s.fatal = true) : ToggleInv s := fun hlive => by simp [h] at hlive

theorem toggleInv_same {s t : State} (h : DriverSame s t) (hs : ToggleInv s) : ToggleInv t := by
  rwa [ToggleInv, h.f, h.d, h.txt]

/-- A reload that is not 0 moves the flip-flop and the parity of the read index together. -/
theorem toggleInv_updateBody {s : State} (g : Tick) (hlive : s.fatal = false) (hv : s.slot s.txt.rd.toNat ≠ 0)
    (hs : ToggleInv s) : ToggleInv (updateBody g s) := by
  intro _ hd
  obtain ⟨hdstate, -⟩ := updateBody_frame g s
  obtain ⟨-, hrd, -⟩ := updateBody_txt g s
  rw [updateBody_outT g hv, hrd, flip_eq_high_iff, odd_succ_iff]
  exact not_congr (hs hlive (hdstate ▸ hd))

/-- Every update event that ends live: a zero reload leaves `AsyncTx` (R131). -/
theorem toggleInv_update {s : State} (g : Tick) (hlive : s.fatal = false) (hs : ToggleInv s) :
    ToggleInv (updateHandler (updateBody g s)) := by
  rcases updateHandler_cases (updateBody g s) with ⟨harr, e⟩ | ⟨-, -, e⟩ | ⟨-, -, e⟩ <;> rw [e]
  · exact toggleInv_updateBody g hlive ((updateBody_txt g s).1 ▸ harr) hs
  · exact toggleInv_of_dstate (by simp)
  · exact toggleInv_of_dstate (by simp)

theorem toggleInv_exec {i : Instr} {s t : State} (hs : ToggleInv s) (h : exec i s = .next t) : ToggleInv t := by
  rcases exec_cases h with hsame | ⟨-, c, -, rfl⟩ | ⟨-, -, ctx, -, rfl⟩ | ⟨-, -, -, rfl⟩ |
    ⟨-, -, -, ctx, -, ⟨hf, rfl⟩ | ⟨-, rfl⟩⟩ | ⟨hlive, -, -, ⟨hf, rfl⟩ | ⟨-, rfl⟩⟩ | ⟨-, -, -, rfl⟩ | ⟨-, rfl⟩
  · exact toggleInv_same hsame hs
  · exact toggleInv_of_fatal (by simp)
  · exact toggleInv_of_dstate (by simp)
  · exact toggleInv_of_dstate (by simp)
  · exact toggleInv_of_fatal hf
  · exact fun _ _ => by simp
  · exact toggleInv_of_fatal hf
  · exact toggleInv_update _ hlive hs
  · exact toggleInv_of_dstate (by simp [stoppedTx])
  · exact toggleInv_of_dstate (by simp [resetMachine, State.reset])

theorem toggleInv_badOp {s : State} (hs : ToggleInv s) : ToggleInv (raiseBadOp s) := by
  rcases raiseBadOp_cases s with hsame | ⟨-, e⟩
  · exact toggleInv_same hsame hs
  · exact toggleInv_of_fatal (by simp [e])

/-- Settles O50: a start sets both to even and Low, an update event flips both or leaves `AsyncTx`, and nothing else
writes either in a live state of `AsyncTx`. -/
theorem stepKeepsTogglePhase : Obligations.StepKeepsTogglePhase :=
  step_keeps (fun _ _ hs => hs) (fun _ => toggleInv_badOp) fun _ _ _ => toggleInv_exec

end Sys2Proof.Proofs.TogglePhase

/-! ## The update event (spec/42_transmit_engine.md R126 to R133, R172) -/

namespace Sys2Proof.Proofs.UpdateEvent

open Sys2Proof.Machine
open Sys2Proof.Laws
open Sys2Proof.Laws.State
open Sys2Proof.Laws.Refill
open Sys2Proof.Laws.Transmit
open Sys2Proof.Proofs.RefillKeeps
open Sys2Proof.Proofs.HalfPoint
open Sys2Proof.Proofs.Outputs

theorem flip_ne (l : Level) : l.flip ≠ l := by
  cases l <;> decide

/-! ### The transfer and the toggle -/

/-- The state after the transfer and the toggle of a reload that is not 0 (R127, R129). -/
def played (s : State) : State := { s.silent with
  txt := { s.txt with arr := s.slot s.txt.rd.toNat, rd := s.txt.rd + 1, outT := s.txt.outT.flip }
  wave := s.wave ++ [{ level := { s.txt with outT := s.txt.outT.flip }.pinLevel, ticks := s.slot s.txt.rd.toNat }] }

/-- The state after the transfer of a reload of 0 (R127, R129), with the context and the source that a refill left. -/
def loadedZero (c : TxContext) (q : SymbolSource) (s : State) : State :=
  { s.silent with txt := { s.txt with arr := 0, rd := s.txt.rd + 1 }, txc := c, src := q }

theorem toggleOutput_played {s : State} (h : s.slot s.txt.rd.toNat ≠ 0) :
    toggleOutput (dmaTransfer s.silent) = played s :=
  toggleOutput_nonzero (dmaTransfer s.silent) h

theorem toggleOutput_loadedZero {s : State} (h : s.slot s.txt.rd.toNat = 0) :
    toggleOutput (dmaTransfer s.silent) = loadedZero s.txc s.src s := by
  have hslot : s.silent.slot s.txt.rd.toNat = 0 := h
  rw [toggleOutput_zero (dmaTransfer s.silent) h]
  simp [dmaTransfer, loadedZero, hslot]

/-- No refill is asked for away from the half points (R128). -/
theorem updateBody_away {s : State} (g : Tick) (h127 : s.txt.rd ≠ 127) (h255 : s.txt.rd ≠ 255) :
    updateBody g s = toggleOutput (dmaTransfer s.silent) := by
  have hrd : (toggleOutput (dmaTransfer s.silent)).txt.rd = s.txt.rd + 1 := by simp
  rcases dmaHandler_cases g (toggleOutput (dmaTransfer s.silent)) with ⟨h, -⟩ | ⟨h, -⟩ | ⟨-, -, e⟩
  · rw [hrd] at h
    bv_omega
  · rw [hrd] at h
    bv_omega
  · exact e

/-! ### The handshake -/

section Handshake

variable {g : Tick} {s : State} {c : TxContext} {q : SymbolSource} (hlive : s.fatal = false) (hen : s.txt.en = true)
  (hbody : updateBody g s = loadedZero c q s)

include hlive hen hbody

/-- The first zero reload of a transmission (R131). -/
theorem txUpdate_first_zero (hd : s.dstate = .asyncTx) : txUpdate g s = { loadedZero c q s with
    dstate := .asyncTxLast, txt := { s.txt with arr := 0, rd := s.txt.rd + 1, pin := .forcedLow } } := by
  rw [txUpdate_of_live hlive hen (by rw [hbody]; exact hlive), hbody]
  exact updateHandler_first_zero rfl hd

/-- A zero reload after the first (R131). -/
theorem txUpdate_next_zero (hd : s.dstate ≠ .asyncTx) : txUpdate g s = { loadedZero c q s with
    dstate := .asyncTxEnd, txt := { s.txt with arr := 0, rd := s.txt.rd + 1, en := false } } := by
  rw [txUpdate_of_live hlive hen (by rw [hbody]; exact hlive), hbody]
  exact updateHandler_next_zero rfl hd

end Handshake

/-! ### Away from the half points -/

/-- Settles O40: no refill is asked for, and the update handler has nothing to do. -/
theorem txUpdatePlaysASlot : Obligations.TxUpdatePlaysASlot := by
  rintro s _ hlive hen h127 h255 rfl hv
  have hbody : updateBody Config.guardTime s = played s :=
    (updateBody_away _ h127 h255).trans (toggleOutput_played hv)
  have hupdate := txUpdate_of_live (g := Config.guardTime) hlive hen (by rw [hbody]; exact hlive)
  rw [hbody, updateHandler_nonzero (s := played s) hv] at hupdate
  exact ⟨s.txt.outT.flip, flip_ne _, congrArg _ hupdate⟩

/-- Settles O41: no refill is asked for, and the update handler does one of its two zero branches. -/
theorem txUpdateZeroHandshake : Obligations.TxUpdateZeroHandshake := by
  intro s hlive hen h127 h255 hv
  have hbody : updateBody Config.guardTime s = loadedZero s.txc s.src s :=
    (updateBody_away _ h127 h255).trans (toggleOutput_loadedZero hv)
  exact ⟨fun hd => congrArg _ (txUpdate_first_zero hlive hen hbody hd),
    fun hd => congrArg _ (txUpdate_next_zero hlive hen hbody hd)⟩

/-! ### A zero duration at a half point -/

/-- A live update event whose refill is fatal ends before the update handler (R126, R172). -/
theorem txUpdate_of_fatal {g : Tick} {s : State} (hlive : s.fatal = false) (hen : s.txt.en = true)
    (hb : (updateBody g s).fatal = true) : txUpdate g s = updateBody g s := by
  rcases txUpdate_cases g s with ⟨h, -⟩ | ⟨-, -, -, e⟩ | ⟨-, -, h, -⟩
  · simp [hlive, hen] at h
  · exact e
  · simp [hb] at h

/-- The fatal event is the transfer and the toggle, what the refill wrote, and the fatal entry. -/
theorem txUpdate_zeroDuration {g : Tick} {s : State} {w : Window} {f : Fill} (hlive : s.fatal = false)
    (hen : s.txt.en = true) (hhalf : AtHalf s w) (hr : refill g w ⟨s.txc, s.src⟩ = .zeroDuration f) :
    txUpdate g s = { toggleOutput (dmaTransfer s.silent) with
      txc := f.ctx, src := f.src, fatal := true, fcause := .zeroDuration } := by
  have hbody := (updateBody_at_half g hhalf).trans
    (state_refill_zeroDuration (s := toggleOutput (dmaTransfer s.silent)) (by simpa using hr))
  rw [txUpdate_of_fatal hlive hen (by simp [hbody]), hbody]
  exact raiseFatal_live _ _ (by simpa using hlive)

/-- Settles O43: the two cases are those of the toggle. -/
theorem txUpdateZeroDurationIsFatal : Obligations.TxUpdateZeroDurationIsFatal := by
  rintro s w _ f' hlive hen hhalf rfl hr
  have hupdate := txUpdate_zeroDuration hlive hen hhalf hr
  refine ⟨fun hv => ⟨s.txt.outT.flip, flip_ne _, congrArg Host.Outcome.next ?_⟩,
    fun hv => congrArg Host.Outcome.next ?_⟩
  · rw [hupdate, toggleOutput_played hv]
    rfl
  · rw [hupdate, toggleOutput_loadedZero hv]
    rfl

/-! ### Two zeros in a row -/

/-- The refill that the event asks for, if it asks for one, meets no zero duration. -/
def RefillCompletes (g : Tick) (s : State) : Prop :=
  ∀ w, AtHalf s w → ∃ n f, refill g w ⟨s.txc, s.src⟩ = .done n f

/-- What a zero reload whose refill completes leaves for the update handler: a context and a source that are as before
away from the half points, and the slot loaded next as before at them too, since it lies in the other half. -/
theorem updateBody_zero {s : State} (hv : s.slot s.txt.rd.toNat = 0) (hr : RefillCompletes Config.guardTime s) :
    ∃ c q, updateBody Config.guardTime s = loadedZero c q s ∧
      (s.txt.rd ≠ 127 → s.txt.rd ≠ 255 → c = s.txc ∧ q = s.src) ∧
      Memory.read s.draws c.buf (s.txt.rd + 1).toNat = s.slot (s.txt.rd + 1).toNat := by
  by_cases hhalf : ∃ w, AtHalf s w
  · obtain ⟨w, hw⟩ := hhalf
    obtain ⟨n, f, hf⟩ := hr w hw
    refine ⟨f.ctx, f.src, by rw [updateBody_refilled hw hf, toggleOutput_loadedZero hv]; rfl, fun h127 h255 => ?_, ?_⟩
    · rcases hw with ⟨h, -⟩ | ⟨h, -⟩
      · exact absurd h h127
      · exact absurd h h255
    · refine Memory.read_congr _ ((filled_of_refill hf).2.outside _ ?_)
      rcases hw with ⟨h, rfl⟩ | ⟨h, rfl⟩ <;> rw [h] <;> decide
  · have h127 : s.txt.rd ≠ 127 := fun h => hhalf ⟨.firstHalf, .inl ⟨h, rfl⟩⟩
    have h255 : s.txt.rd ≠ 255 := fun h => hhalf ⟨.secondHalf, .inr ⟨h, rfl⟩⟩
    exact ⟨s.txc, s.src, (updateBody_away _ h127 h255).trans (toggleOutput_loadedZero hv), fun _ _ => ⟨rfl, rfl⟩, rfl⟩

/-- The first of two zero reloads, and what it leaves for the second. -/
theorem exec_first_zero {s : State} (hlive : s.fatal = false) (hen : s.txt.en = true) (hd : s.dstate = .asyncTx)
    (hv : s.slot s.txt.rd.toNat = 0) (hr : RefillCompletes Config.guardTime s) :
    ∃ t, exec .txUpdate s = .next t ∧ t.dstate = .asyncTxLast ∧ t.txt.pin = .forcedLow ∧ t.txt.en = true ∧
      t.fatal = false ∧ t.wave = s.wave ∧ t.txt.rd = s.txt.rd + 1 ∧
      (s.txt.rd ≠ 127 → s.txt.rd ≠ 255 → t.txc = s.txc ∧ t.src = s.src) ∧
      t.slot (s.txt.rd + 1).toNat = s.slot (s.txt.rd + 1).toNat := by
  obtain ⟨c, q, hbody, hkept, hnext⟩ := updateBody_zero hv hr
  exact ⟨_, congrArg Host.Outcome.next (txUpdate_first_zero hlive hen hbody hd), rfl, rfl, hen, hlive, rfl, rfl, hkept,
    hnext⟩

/-- The second of two zero reloads. -/
theorem exec_next_zero {s : State} (hlive : s.fatal = false) (hen : s.txt.en = true) (hd : s.dstate ≠ .asyncTx)
    (hv : s.slot s.txt.rd.toNat = 0) (hr : RefillCompletes Config.guardTime s) :
    ∃ t, exec .txUpdate s = .next t ∧ t.dstate = .asyncTxEnd ∧ t.txt.pin = s.txt.pin ∧ t.txt.en = false ∧
      t.fatal = false ∧ t.wave = s.wave := by
  obtain ⟨c, q, hbody, -, -⟩ := updateBody_zero hv hr
  exact ⟨_, congrArg Host.Outcome.next (txUpdate_next_zero hlive hen hbody hd), rfl, rfl, rfl, hlive, rfl⟩

/-- Settles O44: at most one of the two events is at a half point. If it is the first, its refill leaves the second slot
alone; if it is the second, the context and the source are still those of the start. -/
theorem twoZerosEndTheTransmission : Obligations.TwoZerosEndTheTransmission := by
  intro s hlive hen hd hv hv' hr
  have hfirst : RefillCompletes Config.guardTime s := by
    rintro w (⟨h, rfl⟩ | ⟨h, rfl⟩)
    · exact hr _ (.inl ⟨.inr h, rfl⟩)
    · exact hr _ (.inr ⟨.inr h, rfl⟩)
  obtain ⟨t, ht, htd, htpin, hten, htlive, htwave, htrd, hkept, hnext⟩ := exec_first_zero hlive hen hd hv hfirst
  have hsecond : RefillCompletes Config.guardTime t := by
    rintro w (⟨h, rfl⟩ | ⟨h, rfl⟩) <;> rw [htrd] at h
    · have h126 : s.txt.rd = 126 := by bv_omega
      obtain ⟨hc, hq⟩ := hkept (by simp [h126]) (by simp [h126])
      rw [hc, hq]
      exact hr _ (.inl ⟨.inl h126, rfl⟩)
    · have h254 : s.txt.rd = 254 := by bv_omega
      obtain ⟨hc, hq⟩ := hkept (by simp [h254]) (by simp [h254])
      rw [hc, hq]
      exact hr _ (.inr ⟨.inl h254, rfl⟩)
  obtain ⟨u, hu, hud, hupin, huen, hulive, huwave⟩ :=
    exec_next_zero htlive hten (by simp [htd]) (by rw [htrd, hnext, hv']) hsecond
  exact ⟨t, u, ht, hu, htd, pinLevel_forcedLow htpin, hten, htlive, htwave, hud,
    pinLevel_forcedLow (hupin.trans htpin), huen, hulive, huwave.trans htwave⟩

end Sys2Proof.Proofs.UpdateEvent

/-! ## The commands of the TransmitEngine (spec/42_transmit_engine.md R111 to R113, R134 to R136) -/

namespace Sys2Proof.Proofs.TransmitCommands

open Sys2Proof.Machine
open Sys2Proof.Laws
open Sys2Proof.Laws.State
open Sys2Proof.Laws.Refill
open Sys2Proof.Laws.Transmit
open Sys2Proof.Laws.Step
open Sys2Proof.Proofs.RefillKeeps
open Sys2Proof.Proofs.Frames
open Sys2Proof.Proofs.Responses

/-! ### Start -/

/-- The context and the source that `START_ASYNC_TX` hands to the pre-fill (R111). -/
def prefillInput (ctx : Word) (s : State) : Fill :=
  ⟨{ s.txc with ctx := ctx, dutyH := 0, dutyL := 0, pendV := false }, s.src⟩

section Start

variable {g : Tick} {ctx : Word} {s : State} {f : Fill}

theorem prefilled_done {n : Nat} (hr : refill g .prefill (prefillInput ctx s) = .done n f) :
    prefilled g s ctx = { allocateTx ctx s.silent with txc := f.ctx, src := f.src } :=
  state_refill_done (s := allocateTx ctx s.silent) hr

theorem prefilled_zeroDuration (hlive : s.fatal = false)
    (hr : refill g .prefill (prefillInput ctx s) = .zeroDuration f) :
    prefilled g s ctx = { allocateTx ctx s.silent with
      txc := f.ctx, src := f.src, fatal := true, fcause := .zeroDuration } :=
  (state_refill_zeroDuration (s := allocateTx ctx s.silent) hr).trans (raiseFatal_live _ _ hlive)

variable (hlive : s.fatal = false) (hd : s.dstate = .idle) (hreg : s.reg = .txRx)

include hlive hd hreg

/-- A permitted start arms the hardware unless its pre-fill is fatal (R111). -/
theorem startAsyncTx_permitted : startAsyncTx g ctx s =
    if (prefilled g s ctx).fatal then prefilled g s ctx else (armTx (prefilled g s ctx)).respond 1 := by
  rcases startAsyncTx_cases g s ctx with ⟨h, -⟩ | ⟨-, h, -⟩ | ⟨-, -, h, -⟩ | ⟨-, -, -, h, e⟩ | ⟨-, -, -, h, e⟩
  · simp [hlive] at h
  · exact absurd hd h
  · simp [hreg] at h
  · rw [e, h, if_pos rfl]
  · rw [e, h, if_neg Bool.false_ne_true]

end Start

/-- Settles O27: the pre-fill is a completed refill of all 256 slots from empty accumulators, so `Filled` says what it
wrote and counted, and `armTx` writes the rest. -/
theorem startTxCompletes : Obligations.StartTxCompletes := by
  rintro ctx s hlive hd hreg ⟨n, f, hr⟩
  obtain ⟨rfl, hfilled⟩ := filled_of_refill hr
  have hpre : prefilled Config.guardTime s ctx = _ := prefilled_done hr
  have hstart := startAsyncTx_permitted (g := Config.guardTime) (ctx := ctx) hlive hd hreg
  rw [hpre, if_neg (by simp [hlive])] at hstart
  refine ⟨_, congrArg Host.Outcome.next hstart, hr, fun k hk => ?_, ?_, ?_, hfilled.ctx, ?_⟩
  · have hwindow : k < Window.prefill.base + Window.prefill.count := hk
    obtain ⟨v, hv⟩ := Option.isSome_iff_exists.1 (hfilled.inside k (Nat.zero_le k) hwindow)
    exact ⟨v, hv, Memory.read_of_lookup _ hv⟩
  · exact hfilled.dutyH.trans (zero_add _)
  · exact hfilled.dutyL.trans (zero_add _)
  · simp [hlive]

/-- Settles O28: the pre-fill's own fatal entry ends the command. -/
theorem startTxZeroDurationIsFatal : Obligations.StartTxZeroDurationIsFatal := by
  intro ctx s f hlive hd hreg hr
  have hpre : prefilled Config.guardTime s ctx = _ := prefilled_zeroDuration hlive hr
  have hstart := startAsyncTx_permitted (g := Config.guardTime) (ctx := ctx) hlive hd hreg
  rw [hpre, if_pos rfl] at hstart
  exact congrArg Host.Outcome.next hstart

/-! ### Poll and stop -/

/-- Settles O29: a live poll only answers, and its answer tells whether the state is `AsyncTxEnd`. -/
theorem isCompleteResponds : Obligations.IsCompleteResponds := fun s hlive =>
  ⟨boolResponse (decide (s.dstate = .asyncTxEnd)), congrArg _ (whenLive_live _ hlive),
    fun hd => by rw [decide_eq_true hd]; rfl, fun hd => by rw [decide_eq_false hd]; rfl⟩

theorem transmits_iff (d : DState) : d.transmits = true ↔ d = .asyncTx ∨ d = .asyncTxLast ∨ d = .asyncTxEnd := by
  cases d <;> decide

theorem not_transmits_iff (d : DState) : d.transmits = false ↔ d = .idle ∨ d = .asyncRx := by
  cases d <;> decide

/-- Settles O30: of the cases of `STOP_ASYNC_TX` a live state leaves the stop and the fatal entry. -/
theorem stopTxCompletes : Obligations.StopTxCompletes := by
  intro s hlive
  rw [← transmits_iff, ← not_transmits_iff]
  rcases stopAsyncTx_cases s with ⟨hfatal, -⟩ | ⟨-, hd, e⟩ | ⟨-, hd, e⟩
  · simp [hlive] at hfatal
  · exact ⟨fun h => by simp [hd] at h, fun _ => congrArg _ (e.trans (raiseFatal_live _ _ hlive))⟩
  · exact ⟨fun _ => ⟨stoppedTx s, congrArg _ e, by simp [stoppedTx, hlive]⟩, fun h => by simp [hd] at h⟩

/-! ### The end of a transmission -/

/-- Only a start from `Idle` and an update event of a running timer pull symbols, and a push makes no call of the
source. -/
theorem calls_kept {i : Instr} {s t : State} (h : exec i s = .next t) (hreset : i ≠ .reset) (hen : s.txt.en = false)
    (hd : s.dstate ≠ .idle) : t.src.calls = s.src.calls := by
  cases i with
  | reset => exact absurd rfl hreset
  | txUpdate =>
    cases (exec_of_guard_false (i := .txUpdate) hen).symm.trans h
    rfl
  | startAsyncTx ctx =>
    cases h
    rcases startAsyncTx_cases Config.guardTime s ctx with ⟨-, e⟩ | ⟨-, -, e⟩ | ⟨-, hd', -⟩ | ⟨-, hd', -⟩ | ⟨-, hd', -⟩
    · rw [e]
      rfl
    · simp [e]
    all_goals exact absurd hd' hd
  | srcPush y =>
    cases h
    rcases whenLive_cases s fun s => { s with src := { s.src with script := s.src.script ++ [y] } } with
      ⟨-, e⟩ | ⟨-, e⟩ <;> rw [srcPush, e] <;> rfl
  | startAsyncRx | stopAsyncRx | stopAsyncTx | isAsyncTxComplete | setFrequency | isTxAllowed | rxTick | rxFall |
    rxRise => cases exec_writes h <;> simp [stoppedTx]

/-- In `AsyncTxEnd` every stimulus but the two leaves the driver as it is, or is fatal before it writes anything. -/
theorem driver_kept_in_end {i : Instr} {s t : State} (h : exec i s = .next t) (hd : s.dstate = .asyncTxEnd)
    (hen : s.txt.en = false) (hreset : i ≠ .reset) (hstop : i ≠ .stopAsyncTx) :
    t.dstate = s.dstate ∧ t.rfEn = s.rfEn ∧ t.radioMode = s.radioMode ∧ t.txt = s.txt ∧ t.txc = s.txc := by
  rcases exec_cases h with hsame | ⟨-, c, -, rfl⟩ | ⟨-, hd', -⟩ | ⟨-, hd', -⟩ | ⟨-, hd', -⟩ | ⟨-, hen', -⟩ |
    ⟨-, -, hi, -⟩ | ⟨hi, -⟩
  · exact ⟨hsame.d, hsame.rf, hsame.rm, hsame.txt, hsame.txc⟩
  · simp
  · simp [hd] at hd'
  · simp [hd] at hd'
  · simp [hd] at hd'
  · simp [hen] at hen'
  · exact absurd hi hstop
  · exact absurd hi hreset

/-- Settles O57: R155 gives the values in `AsyncTxEnd`, and no stimulus but the two writes them or pulls a symbol. -/
theorem endIsQuiescent : Obligations.EndIsQuiescent := by
  intro i s t hs hd h hreset hstop
  have hen : s.txt.en = false := by simpa [hd] using hs.txEn
  have hsend : s.dstate.transmits = true := by rw [hd]; rfl
  obtain ⟨-, -, -, hrfEn⟩ := hs.armed hsend
  obtain ⟨hdstate, hrf, hmode, htxt, htxc⟩ := driver_kept_in_end h hd hen hreset hstop
  exact ⟨hdstate.trans hd, hrf.trans hrfEn, hmode.trans (hs.modeTx hsend),
    (congrArg TxTimer.pin htxt).trans (hs.pinForced.2 (.inr hd)), htxt, htxc,
    calls_kept h hreset hen (by simp [hd])⟩

end Sys2Proof.Proofs.TransmitCommands

/-! ## How a refill runs through the symbols to come (spec/42_transmit_engine.md R117 to R125) -/

namespace Sys2Proof.Proofs.RefillRun

open Sys2Proof.Machine
open Sys2Proof.Laws
open Sys2Proof.Laws.Refill
open Sys2Proof.Proofs.RefillKeeps
open Sys2Proof.Proofs.Layout
open Sys2Proof.Safety (upcoming slotsOf remaining)

/-- Settles O33: the accumulators are two of the fields of `Filled`. -/
theorem refillCountsDuty : Obligations.RefillCountsDuty := fun _ _ _ _ h =>
  have hfilled := (filled_of_refill h).2
  ⟨hfilled.dutyH, hfilled.dutyL⟩

theorem parityOf_base (w : Window) : parityOf w.base = false := by
  simp [parityOf_eq, (window_even w).1]

/-! ### What is still to come -/

theorem upcoming_of_none_held {f : Fill} (h : f.ctx.pendV = false) : upcoming f = f.src.script := by
  simp [upcoming, h]

@[simp] theorem upcoming_zeroFill (n k : Nat) (f : Fill) : upcoming (f.zeroFill n k) = upcoming f := rfl

/-- The symbol that a turn of the loop takes, with those that follow it. -/
theorem symbols_cons {k : Nat} {f : Fill} {s : Symbol} (hs : symbolAt k f = s) (h : s ≠ .wait) :
    (upcoming f).map decodeSymbol = s :: (upcoming (taken k f)).map decodeSymbol :=
  hs ▸ symbols_of_symbolAt (hs ▸ h)

/-- A held symbol is the first of those to come (R118, R123). -/
theorem symbols_hold {f : Fill} {l : Level} {d : Tick} (hf : f.ctx.pendV = false) (hd : d.toNat < 2 ^ 30) :
    (upcoming (f.hold l d)).map decodeSymbol = .timed l d :: (upcoming f).map decodeSymbol := by
  simp [upcoming, hf, Symbols.decode_encode_timed l d hd]

/-- A loop that completes leaves to come what `Safety.remaining` says. -/
theorem fillLoop_remaining (g : Tick) (left k : Nat) (f : Fill) {n : Nat} {f' : Fill}
    (h : fillLoop g left k f = .done n f') :
    (upcoming f').map decodeSymbol = remaining left (parityOf k) ((upcoming f).map decodeSymbol) := by
  revert n f'
  refine fillLoop_rule
    (P := fun left k f r => ∀ {n f'}, r = .done n f' →
      (upcoming f').map decodeSymbol = remaining left (parityOf k) ((upcoming f).map decodeSymbol))
    ?zero ?wait ?resetOdd ?resetEven ?zeroDur ?hold ?fits ?guarded left k f
  case zero =>
    rintro k f _ _ ⟨⟩
    rw [remaining]
  case wait =>
    rintro n k f hs _ _ ⟨⟩
    rcases nextSymbol_upcoming (f.atSlot k) with ⟨hu, -, hr⟩ | ⟨y, ys, hu, hy, hr⟩ <;> rw [upcoming_atSlot] at hu
    · rw [hu, taken, hr, List.map_nil, remaining]
    · rw [hu, taken, hr, List.map_cons, ← hy, show (f.atSlot k).nextSymbol.1 = .wait from hs, remaining]
  case resetOdd =>
    rintro n k f hs - m f' h
    obtain ⟨-, rfl⟩ := FillEnd.done.inj h
    rw [upcoming_put, symbols_cons hs (by simp), remaining]
  case resetEven =>
    rintro n k f hs - _ _ ⟨⟩
    rw [symbols_cons hs (by simp), remaining]
  case zeroDur =>
    rintro n k f l - _ _ ⟨⟩
  case hold =>
    rintro k f l d hs - hl _ _ ⟨⟩
    obtain ⟨y, -, -, hy, -⟩ := timed_word hs
    rw [symbols_hold (by simp) (Symbols.dur_lt_of_timed hy), upcoming_put,
      symbols_cons hs (by simp), remaining, if_neg hl]
  case fits =>
    intro n k f l d r hs _ hl ih m f' h
    rw [ih h, upcoming_put, parityOf_succ, symbols_cons hs (by simp)]
    cases n <;> simp [remaining, hl]
  case guarded =>
    intro n k f l d r hs _ hl ih m f' h
    rw [ih h, upcoming_put, upcoming_put, parityOf_succ, parityOf_succ, Bool.not_not,
      symbols_cons hs (by simp), remaining, if_neg hl]

theorem refill_remaining {g : Tick} {w : Window} {f f' : Fill} {n : Nat} (h : refill g w f = .done n f') :
    (upcoming f').map decodeSymbol = remaining w.count false ((upcoming f).map decodeSymbol) := by
  cases hr : fillLoop g w.count w.base f with
  | zeroDuration f1 => simp [refill, hr] at h
  | done left f1 =>
    obtain ⟨-, rfl⟩ : 0 = n ∧ f1.zeroFill left (w.base + w.count - left) = f' := by simpa [refill, hr] using h
    rw [upcoming_zeroFill, ← parityOf_base w]
    exact fillLoop_remaining g w.count w.base f hr

/-- Settles O34: the window by `refill_layout`, the symbols to come by `refill_remaining`, the end by `refill_live`. -/
theorem refillRefinesTheLayout : Obligations.RefillRefinesTheLayout :=
  ⟨fun _ _ _ _ h => ⟨(filled_of_refill h).1, fun _ hj => refill_layout h hj, refill_remaining h⟩,
    fun w f h => refill_live Config.guardTime w f h⟩

/-! ### A run of `Timed` symbols -/

/-- A word of a `Timed` symbol whose duration is not 0. -/
def TimedWord (y : Word) : Prop := ∃ l d, decodeSymbol y = .timed l d ∧ d ≠ 0

theorem symbolAt_of_upcoming {f : Fill} {y : Word} {ys : List Word} (k : Nat) (h : upcoming f = y :: ys) :
    symbolAt k f = decodeSymbol y ∧ upcoming (taken k f) = ys := by
  rcases nextSymbol_upcoming (f.atSlot k) with ⟨hu, -, -⟩ | ⟨z, zs, hu, hz, hr⟩ <;> rw [upcoming_atSlot, h] at hu
  · cases hu
  · cases hu
    exact ⟨hz, hr⟩

/-- A symbol of the other level takes a guard before it (R121). -/
theorem fillLoop_guarded {g : Tick} {n k : Nat} {f : Fill} {l : Level} {d : Tick} (hs : symbolAt k f = .timed l d)
    (hd : d ≠ 0) (hl : l ≠ lvl (parityOf k)) :
    fillLoop g (n + 2) k f = fillLoop g n (k + 2) (((taken k f).put k g).put (k + 1) d) := by
  rw [fillLoop_succ, hs]
  simp only [hd, hl, if_false]

/-- What a run of `Timed` symbols does to a fill: it lays `slots` into the slots from `k` on, adds each to the
accumulator of its side, and leaves `rest` to come. -/
structure Ran (k : Nat) (slots : List Tick) (rest : List Word) (f f' : Fill) : Prop where
  wrote : Wrote k slots.length f f'
  laid : Laid k slots f.ctx.buf f'.ctx.buf
  rest : upcoming f' = rest

/-- One slot written before the rest of the run. -/
theorem Ran.cons {k : Nat} {v : Tick} {slots : List Tick} {rest : List Word} {f t f' : Fill} (hv : v ≠ 0)
    (hp : t.ctx.parity = parityOf k) (hb : t.ctx.buf = f.ctx.buf) (hc : t.ctx.ctx = f.ctx.ctx)
    (hH : t.ctx.dutyH = f.ctx.dutyH) (hL : t.ctx.dutyL = f.ctx.dutyL) (h : Ran (k + 1) slots rest (t.put k v) f') :
    Ran k (v :: slots) rest f f' where
  wrote := .cons hv hp hb hc hH hL h.wrote
  laid := .cons (by simpa [hb] using h.laid)
  rest := h.rest

/-- The loop runs through `Timed` symbols whose slots fit into the request, and goes on behind them (R121, R122). -/
theorem fillLoop_timed {g : Tick} (hg : g ≠ 0) (n : Nat) {ys rest : List Word} {k : Nat} {f : Fill} {slots : List Tick}
    (hu : upcoming f = ys ++ rest) (hys : ∀ y ∈ ys, TimedWord y)
    (hslots : slotsOf g (parityOf k) (ys.map decodeSymbol) = slots) :
    ∃ f', fillLoop g (slots.length + n) k f = fillLoop g n (k + slots.length) f' ∧ Ran k slots rest f f' := by
  induction ys generalizing k f slots with
  | nil =>
    subst hslots
    exact ⟨f, by simp [slotsOf], .refl rfl rfl rfl rfl, .nil k _, hu⟩
  | cons y ys ih =>
    obtain ⟨l, d, hy, hd⟩ := hys y (by simp)
    obtain ⟨hs, hrest⟩ := symbolAt_of_upcoming k hu
    rw [hy] at hs
    rw [List.map_cons, hy, slotsOf] at hslots
    by_cases hl : l = lvl (parityOf k)
    · rw [if_pos hl, ← parityOf_succ] at hslots
      obtain ⟨f', e, hran⟩ := ih (k := k + 1) (f := (taken k f).put k d) (by simpa using hrest)
        (fun z hz => hys z (by simp [hz])) rfl
      rw [← hslots]
      refine ⟨f', ?_, .cons (t := taken k f) hd (by simp) (by simp) (by simp) (by simp) (by simp) hran⟩
      rw [List.length_cons, Nat.add_right_comm, fillLoop_fits (hl ▸ hs) hd, e]
      congr 1
      omega
    · rw [if_neg hl, show parityOf k = parityOf (k + 2) by simp] at hslots
      obtain ⟨f', e, hran⟩ := ih (k := k + 2) (f := ((taken k f).put k g).put (k + 1) d) (by simpa using hrest)
        (fun z hz => hys z (by simp [hz])) rfl
      rw [← hslots]
      refine ⟨f', ?_, .cons (t := taken k f) hg (by simp) (by simp) (by simp) (by simp) (by simp)
        (.cons (t := (taken k f).put k g) hd (by simp) rfl rfl rfl rfl hran)⟩
      rw [List.length_cons, List.length_cons, Nat.add_right_comm _ 1, Nat.add_right_comm _ 1,
        fillLoop_guarded hs hd hl, e]
      congr 1
      omega

theorem length_slotsOf_le (g : Tick) (odd : Bool) (ss : List Symbol) : (slotsOf g odd ss).length ≤ 2 * ss.length := by
  induction odd, ss using Safety.slotsOf.induct with
  | case1 => simp [slotsOf]
  | case2 => simp [slotsOf]
  | case3 => simp [slotsOf]
  | case4 odd d ss ih =>
    rw [slotsOf, if_pos rfl]
    simp only [List.length_cons]
    omega
  | case5 odd l d ss hl ih =>
    rw [slotsOf, if_neg hl]
    simp only [List.length_cons]
    omega

/-! ### How the loop ends -/

theorem symbolAt_of_nothing {f : Fill} (k : Nat) (h : upcoming f = []) : symbolAt k f = .wait := by
  rcases nextSymbol_upcoming (f.atSlot k) with ⟨-, hw, -⟩ | ⟨y, ys, hu, -, -⟩
  · exact hw
  · rw [upcoming_atSlot, h] at hu
    cases hu

/-- `Wait` ends the loop with nothing written (R119). -/
theorem fillLoop_wait {g : Tick} {n k : Nat} {f : Fill} (hs : symbolAt k f = .wait) :
    fillLoop g (n + 1) k f = .done (n + 1) (taken k f) := by
  rw [fillLoop_succ, hs]

/-- `Reset` ends the loop behind an odd slot (R120). -/
theorem fillLoop_reset {g : Tick} {n k : Nat} {f : Fill} (hs : symbolAt k f = .reset) :
    ∃ m f', fillLoop g (n + 1) k f = .done m f' ∧ m ≤ n + 1 ∧ (k + (n + 1 - m)) % 2 = 0 := by
  rw [fillLoop_succ, hs]
  cases hp : parityOf k <;> rw [parityOf_eq] at hp
  · exact ⟨n + 1, taken k f, rfl, le_rfl, by simpa using hp⟩
  · refine ⟨n, (taken k f).put k g, rfl, Nat.le_succ n, ?_⟩
    have hodd : k % 2 = 1 := by simpa using hp
    omega

/-- A zero duration ends the loop before it writes anything (R122). -/
theorem fillLoop_zeroDuration {g : Tick} {n k : Nat} {f : Fill} {l : Level} (hs : symbolAt k f = .timed l 0) :
    fillLoop g (n + 1) k f = .zeroDuration (taken k f) := by
  rw [fillLoop_succ, hs]
  exact if_pos rfl

theorem refill_of_done {g : Tick} {w : Window} {f f' : Fill} {n : Nat} (h : fillLoop g w.count w.base f = .done n f') :
    refill g w f = .done 0 (f'.zeroFill n (w.base + w.count - n)) := by
  rw [refill, h]

theorem refill_of_zeroDuration {g : Tick} {w : Window} {f f' : Fill}
    (h : fillLoop g w.count w.base f = .zeroDuration f') : refill g w f = .zeroDuration f' := by
  rw [refill, h]

theorem count_eq_succ (w : Window) : ∃ n, w.count = n + 1 := by
  obtain ⟨-, -, -, hpos⟩ := window_even w
  exact Nat.exists_eq_succ_of_ne_zero (Nat.ne_of_gt hpos)

/-- The loop of a request reaches what follows `Timed` symbols that leave a slot of its window over. -/
theorem fillLoop_behind_timed {g : Tick} (hg : g ≠ 0) {w : Window} {f : Fill} {ys zs : List Word} {y : Word}
    {slots : List Tick} (hu : upcoming f = ys ++ y :: zs) (hys : ∀ x ∈ ys, TimedWord x)
    (hslots : slotsOf g false (ys.map decodeSymbol) = slots) (hlen : slots.length < w.count) :
    ∃ n f', w.count = slots.length + (n + 1) ∧
      fillLoop g w.count w.base f = fillLoop g (n + 1) (w.base + slots.length) f' ∧
      Ran w.base slots (y :: zs) f f' := by
  obtain ⟨n, hn⟩ := Nat.exists_eq_add_of_lt hlen
  obtain ⟨f', e, hran⟩ := fillLoop_timed hg (n + 1) hu hys (parityOf_base w ▸ hslots)
  exact ⟨n, f', hn, hn ▸ e, hran⟩

/-! ### `Wait`, `Reset` and a zero duration -/

/-- Settles O36: the loop ends at once, and the zero fill takes the whole window. -/
theorem waitPadsWithZeros : Obligations.WaitPadsWithZeros := by
  intro w f hu
  have hs : symbolAt w.base f = .wait := by
    rcases hu with hu | ⟨y, ys, hu, hy⟩
    · exact symbolAt_of_nothing _ hu
    · exact (symbolAt_of_upcoming _ hu).1.trans hy
  obtain ⟨n, hn⟩ := count_eq_succ w
  have hloop : fillLoop Config.guardTime w.count w.base f = .done w.count (taken w.base f) := hn ▸ fillLoop_wait hs
  refine ⟨_, refill_of_done hloop, fun k h1 h2 => ?_, ?_, ?_⟩
  · rw [zeroFill_buf, Memory.lookup_zeroFill, Nat.add_sub_cancel, if_pos ⟨h1, h2⟩]
  · rw [zeroFill_ctx, taken_dutyH]
  · rw [zeroFill_ctx, taken_dutyL]

/-- Settles O37: the loop ends at the `Reset` behind an odd slot, what it wrote is not 0, and the zero fill does the
rest. -/
theorem resetEndsLow : Obligations.ResetEndsLow := by
  intro w f ys zs r hu hys hr hfit
  have hlen := length_slotsOf_le Config.guardTime false (ys.map decodeSymbol)
  rw [List.length_map] at hlen
  obtain ⟨n, f1, hn, hloop, hran⟩ := fillLoop_behind_timed guardTime_ne_zero hu hys rfl (hlen.trans_lt hfit)
  obtain ⟨m, f2, hend, hm, heven⟩ := fillLoop_reset (g := Config.guardTime) (n := n)
    ((symbolAt_of_upcoming _ hran.rest).1.trans hr)
  rw [hend] at hloop
  obtain ⟨used, rest, hsum, hw, hrest⟩ := fillLoop_wrote guardTime_ne_zero w.count w.base f
  have hm' : m = rest := hrest m f2 hloop
  rw [hloop] at hw
  have hbase := (window_even w).1
  have hlookup (j : Nat) : Memory.lookup (f2.zeroFill m (w.base + w.count - m)).ctx.buf (w.base + j) =
      if used ≤ j ∧ j < w.count then some 0 else Memory.lookup f2.ctx.buf (w.base + j) := by
    rw [zeroFill_buf, Memory.lookup_zeroFill]
    exact if_congr (by omega) rfl rfl
  refine ⟨_, used, refill_of_done hloop, by omega, by omega, fun j hj => ?_, fun j h1 h2 => ?_⟩
  · rw [hlookup, if_neg (by omega)]
    exact hw.inside _ (by omega) (by omega)
  · rw [hlookup, if_pos ⟨h1, h2⟩]

/-- A loop that stops met a zero duration behind `Timed` symbols that left a slot over (R122). -/
theorem fillLoop_stops (g : Tick) (left k : Nat) (f : Fill) {f' : Fill} (h : fillLoop g left k f = .zeroDuration f') :
    ∃ ys y zs, upcoming f = ys ++ y :: zs ∧ (∀ x ∈ ys, TimedWord x) ∧ symbolWordWellFormed y = false ∧
      (slotsOf g (parityOf k) (ys.map decodeSymbol)).length < left := by
  revert f'
  refine fillLoop_rule
    (P := fun left k f r => ∀ {f'}, r = .zeroDuration f' → ∃ ys y zs, upcoming f = ys ++ y :: zs ∧
      (∀ x ∈ ys, TimedWord x) ∧ symbolWordWellFormed y = false ∧
      (slotsOf g (parityOf k) (ys.map decodeSymbol)).length < left)
    ?zero ?wait ?resetOdd ?resetEven ?zeroDur ?hold ?fits ?guarded left k f
  case zero | wait | resetOdd | resetEven | hold =>
    intros
    rename_i h
    cases h
  case zeroDur =>
    rintro n k f l hs _ -
    obtain ⟨y, zs, hu, hy, -⟩ := timed_word hs
    exact ⟨[], y, zs, hu, by simp, (Symbols.illFormed_iff y).2 ⟨l, hy⟩, by simp [slotsOf]⟩
  case fits =>
    intro n k f l d r hs hd hl ih f' h
    obtain ⟨x, xs, hu, hx, hrest⟩ := timed_word hs
    obtain ⟨ys, y, zs, hys, hall, hy, hlen⟩ := ih h
    rw [upcoming_put, taken, hrest] at hys
    rw [upcoming_atSlot, hys] at hu
    refine ⟨x :: ys, y, zs, hu, List.forall_mem_cons.2 ⟨⟨l, d, hx, hd⟩, hall⟩, hy, ?_⟩
    rw [List.map_cons, hx, slotsOf, if_pos hl, ← parityOf_succ, List.length_cons]
    omega
  case guarded =>
    intro n k f l d r hs hd hl ih f' h
    obtain ⟨x, xs, hu, hx, hrest⟩ := timed_word hs
    obtain ⟨ys, y, zs, hys, hall, hy, hlen⟩ := ih h
    rw [upcoming_put, upcoming_put, taken, hrest] at hys
    rw [upcoming_atSlot, hys] at hu
    rw [parityOf_succ, parityOf_succ, Bool.not_not] at hlen
    refine ⟨x :: ys, y, zs, hu, List.forall_mem_cons.2 ⟨⟨l, d, hx, hd⟩, hall⟩, hy, ?_⟩
    rw [List.map_cons, hx, slotsOf, if_neg hl, List.length_cons, List.length_cons]
    omega

/-- A zero duration met first stops a refill before it writes anything. -/
theorem refill_first_zeroDuration {g : Tick} {w : Window} {f : Fill} {y : Word} {ys : List Word}
    (hu : upcoming f = y :: ys) (hy : symbolWordWellFormed y = false) :
    refill g w f = .zeroDuration (taken w.base f) := by
  obtain ⟨l, hl⟩ := (Symbols.illFormed_iff y).1 hy
  obtain ⟨n, hn⟩ := count_eq_succ w
  exact refill_of_zeroDuration (hn ▸ fillLoop_zeroDuration ((symbolAt_of_upcoming _ hu).1.trans hl))

/-- A zero duration behind `Timed` symbols that leave a slot over stops a refill behind their slots. -/
theorem refill_later_zeroDuration {g : Tick} (hg : g ≠ 0) {w : Window} {f : Fill} {ys zs : List Word} {y : Word}
    {slots : List Tick} (hu : upcoming f = ys ++ y :: zs) (hys : ∀ x ∈ ys, TimedWord x)
    (hy : symbolWordWellFormed y = false) (hslots : slotsOf g false (ys.map decodeSymbol) = slots)
    (hlen : slots.length < w.count) :
    ∃ f1, Ran w.base slots (y :: zs) f f1 ∧ refill g w f = .zeroDuration (taken (w.base + slots.length) f1) := by
  obtain ⟨l, hl⟩ := (Symbols.illFormed_iff y).1 hy
  obtain ⟨n, f1, -, hloop, hran⟩ := fillLoop_behind_timed hg hu hys hslots hlen
  exact ⟨f1, hran, refill_of_zeroDuration
    (hloop.trans (fillLoop_zeroDuration ((symbolAt_of_upcoming _ hran.rest).1.trans hl)))⟩

theorem script_taken {k : Nat} {f : Fill} {y : Word} {ys : List Word} (h : upcoming f = y :: ys) :
    (taken k f).src.script = ys :=
  (upcoming_of_none_held (taken_pendV k f)).symm.trans (symbolAt_of_upcoming k h).2

/-- Settles O35: a zero duration met first, one met behind a run of `Timed` symbols, and no other stop. -/
theorem zeroDurationStopsTheRefill : Obligations.ZeroDurationStopsTheRefill := by
  refine ⟨fun w f y ys hv hq hy => ?_, fun w f ys zs y slots hu hys hy hslots hlen => ?_, fun w f f' h => ?_⟩
  · have hu : upcoming f = y :: ys := (upcoming_of_none_held hv).trans hq
    exact ⟨_, refill_first_zeroDuration hu hy, taken_buf _ _, taken_dutyH _ _, taken_dutyL _ _, script_taken hu⟩
  · obtain ⟨f1, hran, hstop⟩ := refill_later_zeroDuration guardTime_ne_zero hu hys hy hslots hlen
    refine ⟨_, hstop, ?_, ?_, ?_, ?_, taken_pendV _ _, script_taken hran.rest⟩
    · rw [taken_buf]
      exact hran.laid.slots
    · rw [taken_buf]
      exact hran.wrote.outside
    · rw [taken_buf, taken_dutyH]
      exact hran.wrote.dutyH
    · rw [taken_buf, taken_dutyL]
      exact hran.wrote.dutyL
  · cases hr : fillLoop Config.guardTime w.count w.base f with
    | done n f1 => simp [refill, hr] at h
    | zeroDuration f1 => exact parityOf_base w ▸ fillLoop_stops Config.guardTime w.count w.base f hr

end Sys2Proof.Proofs.RefillRun

/-! ## The driver state machine (spec/43_driver_state_machine.md R150 to R157) -/

namespace Sys2Proof.Proofs.DriverStates

open Sys2Proof.Machine
open Sys2Proof.Laws.State
open Sys2Proof.Laws.Transmit
open Sys2Proof.Laws.Step
open Sys2Proof.Safety (DriverOk DriverInv)
open Sys2Proof.Proofs.Capture
open Sys2Proof.Proofs.TransmitCommands

/-! ### Commands in the wrong state -/

/-- `START_ASYNC_TX` tests the state before the regulation flag (R154, R173). -/
theorem exec_startAsyncTx_of_bad_state {s : State} (ctx : Word) (hlive : s.fatal = false) (hd : s.dstate ≠ .idle) :
    exec (.startAsyncTx ctx) s = .next { s with resp := none, fatal := true, fcause := .startTxBadState } := by
  rcases startAsyncTx_cases Config.guardTime s ctx with
    ⟨hfatal, -⟩ | ⟨-, -, e⟩ | ⟨-, hidle, -⟩ | ⟨-, hidle, -⟩ | ⟨-, hidle, -⟩
  · simp [hlive] at hfatal
  · exact congrArg _ (e.trans (raiseFatal_live _ _ hlive))
  all_goals exact absurd hidle hd

theorem idle_or_asyncRx {d : DState} (htx : d ≠ .asyncTx) (hlast : d ≠ .asyncTxLast) (hend : d ≠ .asyncTxEnd) :
    d = .idle ∨ d = .asyncRx := by
  rw [← not_transmits_iff, ← Bool.not_eq_true, transmits_iff]
  simp [htx, hlast, hend]

/-- Settles O16: each of the four commands tests its state before it writes anything. -/
theorem wrongStateCommandsAreFatal : Obligations.WrongStateCommandsAreFatal := fun s hlive =>
  ⟨fun hd ctx => (startRxCompletes ctx s hlive).2 hd,
    (stopRxCompletes s hlive).2,
    fun hd ctx => exec_startAsyncTx_of_bad_state ctx hlive hd,
    fun htx hlast hend => (stopTxCompletes s hlive).2 (idle_or_asyncRx htx hlast hend)⟩

/-! ### R155, told state by state -/

abbrev ReceiverOff (r : RxEngine) : Prop := r.en = false ∧ r.ieCc = false ∧ r.pin = .inert

abbrev ReceiverOn (r : RxEngine) : Prop := r.en = true ∧ r.ieCc = true ∧ r.pin = .capture

/-- No context, and neither the timer nor the pin at work; R155 leaves the DMA and the interrupt enables open here. -/
abbrev TransmitterOff (s : State) : Prop := s.txAlloc = false ∧ s.txt.en = false ∧ s.txt.pin = .inert

/-- The context is allocated and the hardware armed, with the timer and the pin as given. -/
abbrev TransmitterOn (en : Bool) (pin : TxPin) (s : State) : Prop :=
  s.txAlloc = true ∧ (s.txt.dmaEn = true ∧ s.txt.ieDma = true ∧ s.txt.ieUpd = true ∧ s.rfEn = true) ∧
    s.radioMode = .tx ∧ s.txt.en = en ∧ s.txt.pin = pin

/-- What R155's six lines leave for a state whose `DSTATE` is the given one. -/
abbrev DriverIn : DState → State → Prop
  | .idle, s => ReceiverOff s.rx ∧ TransmitterOff s ∧ (s.radioMode = .idle ∨ s.radioMode = .none)
  | .asyncRx, s => ReceiverOn s.rx ∧ TransmitterOff s ∧ s.radioMode = .rx
  | .asyncTx, s => ReceiverOff s.rx ∧ TransmitterOn true .toggle s
  | .asyncTxLast, s => ReceiverOff s.rx ∧ TransmitterOn true .forcedLow s
  | .asyncTxEnd, s => ReceiverOff s.rx ∧ TransmitterOn false .forcedLow s

theorem rxPin_ne_capture_iff (p : RxPin) : p ≠ .capture ↔ p = .inert := by
  cases p <;> decide

theorem txPin_inert_iff (p : TxPin) : p = .inert ↔ p ≠ .toggle ∧ p ≠ .forcedLow := by
  cases p <;> decide

/-- R155 is told line by line, each over the five states; `DriverIn` is the same table told row by row. -/
theorem driverOk_iff (s : State) : DriverOk s ↔ DriverIn s.dstate s := by
  constructor
  · rintro ⟨rxEn, ieCc, rxPin, txAlloc, armed, txEn, pinToggle, pinForced, modeRx, modeTx, modeIdle⟩
    cases hd : s.dstate <;>
      simp_all [DriverIn, ReceiverOff, ReceiverOn, TransmitterOff, TransmitterOn, DState.transmits, txPin_inert_iff,
        rxPin_ne_capture_iff]
  · intro h
    cases hd : s.dstate <;> rw [hd] at h <;> constructor <;>
      simp_all [DriverIn, ReceiverOff, ReceiverOn, TransmitterOff, TransmitterOn, DState.transmits]

theorem driverIn_of_driverInv {s : State} {d : DState} (hs : DriverInv s) (hlive : s.fatal = false)
    (hd : s.dstate = d) : DriverIn d s :=
  hd ▸ (driverOk_iff s).1 (hs hlive)

theorem driverInv_of_driverIn {s : State} {d : DState} (hd : s.dstate = d) (h : DriverIn d s) : DriverInv s :=
  fun _ => (driverOk_iff s).2 (hd ▸ h)

theorem driverInv_of_fatal {s : State} (h : s.fatal = true) : DriverInv s := fun hlive => by simp [h] at hlive

/-! ### What keeps the six lines -/

theorem driverInv_same {s t : State} (h : DriverSame s t) (hs : DriverInv s) : DriverInv t := by
  intro hlive
  obtain ⟨rxEn, ieCc, rxPin, txAlloc, armed, txEn, pinToggle, pinForced, modeRx, modeTx, modeIdle⟩ := hs (h.f ▸ hlive)
  constructor <;> simpa only [h.d, h.en, h.ie, h.pin, h.al, h.txt, h.rf, h.rm]

/-- R155 does not read what the lines of R126 before the update handler write. -/
theorem driverIn_updateBody (g : Tick) {s : State} {d : DState} (h : DriverIn d s) : DriverIn d (updateBody g s) := by
  have hframe := updateBody_frame g s
  have htxt := updateBody_txt g s
  cases d <;> simpa [DriverIn, TransmitterOff, TransmitterOn, hframe, htxt] using h

/-- The update handler is entered with the timer running and the six lines as they were. -/
theorem updateBody_running (g : Tick) {s : State} (hs : DriverInv s) (hlive : s.fatal = false)
    (hen : s.txt.en = true) :
    DriverIn (updateBody g s).dstate (updateBody g s) ∧ (updateBody g s).txt.en = true := by
  obtain ⟨hdstate, -⟩ := updateBody_frame g s
  obtain ⟨-, -, hrun, -⟩ := updateBody_txt g s
  exact ⟨hdstate ▸ driverIn_updateBody g (driverIn_of_driverInv hs hlive rfl), hrun.trans hen⟩

/-- The timer runs in two states only, so the update handler makes T4 or T5 or does nothing (R131, R155). -/
theorem updateHandler_cases_of_running {s : State} (hs : DriverIn s.dstate s) (hen : s.txt.en = true) :
    updateHandler s = s ∨
      (s.txt.arr = 0 ∧ s.dstate = .asyncTx ∧
        updateHandler s = { s with dstate := .asyncTxLast, txt := { s.txt with pin := .forcedLow } }) ∨
      (s.txt.arr = 0 ∧ s.dstate = .asyncTxLast ∧
        updateHandler s = { s with dstate := .asyncTxEnd, txt := { s.txt with en := false } }) := by
  rcases updateHandler_cases s with ⟨-, e⟩ | h | ⟨harr, hd, e⟩
  · exact .inl e
  · exact .inr (.inl h)
  · have hrunning : s.dstate = .asyncTx ∨ s.dstate = .asyncTxLast := ((driverOk_iff s).2 hs).txEn.1 hen
    exact .inr (.inr ⟨harr, hrunning.resolve_left hd, e⟩)

theorem driverInv_updateHandler {s : State} (hs : DriverIn s.dstate s) (hen : s.txt.en = true) :
    DriverInv (updateHandler s) := by
  rcases updateHandler_cases_of_running hs hen with e | ⟨-, hd, e⟩ | ⟨-, hd, e⟩ <;> rw [e]
  · exact driverInv_of_driverIn rfl hs
  · rw [hd] at hs
    obtain ⟨hrx, halloc, harmed, hmode, hen, -⟩ := hs
    exact driverInv_of_driverIn rfl ⟨hrx, halloc, harmed, hmode, hen, rfl⟩
  · rw [hd] at hs
    obtain ⟨hrx, halloc, harmed, hmode, -, hpin⟩ := hs
    exact driverInv_of_driverIn rfl ⟨hrx, halloc, harmed, hmode, rfl, hpin⟩

theorem receiverOff_of_transmits {s : State} {d : DState} (hd : d.transmits = true) (hs : DriverIn d s) :
    ReceiverOff s.rx := by
  cases d with
  | idle | asyncRx => exact nomatch hd
  | asyncTx | asyncTxLast | asyncTxEnd => exact hs.1

/-- The six lines after a stimulus: each command that completes sets up the state it goes to. -/
theorem driverInv_exec {i : Instr} {s t : State} (hs : DriverInv s) (h : exec i s = .next t) : DriverInv t := by
  rcases exec_cases h with hsame | ⟨-, c, -, rfl⟩ | ⟨hlive, hd, ctx, -, rfl⟩ | ⟨hlive, hd, -, rfl⟩ |
    ⟨hlive, hd, -, ctx, -, ⟨hf, rfl⟩ | ⟨-, rfl⟩⟩ | ⟨hlive, hen, -, ⟨hf, rfl⟩ | ⟨-, rfl⟩⟩ | ⟨hlive, hd, -, rfl⟩ |
    ⟨-, rfl⟩
  · exact driverInv_same hsame hs
  · exact driverInv_of_fatal (by simp)
  · obtain ⟨-, htx, -⟩ := driverIn_of_driverInv hs hlive hd
    exact driverInv_of_driverIn (d := .asyncRx) rfl ⟨⟨rfl, rfl, rfl⟩, htx, rfl⟩
  · obtain ⟨-, htx, -⟩ := driverIn_of_driverInv hs hlive hd
    exact driverInv_of_driverIn (d := .idle) rfl ⟨⟨rfl, rfl, rfl⟩, htx, .inl rfl⟩
  · exact driverInv_of_fatal hf
  · obtain ⟨hrx, -⟩ := driverIn_of_driverInv hs hlive hd
    exact driverInv_of_driverIn (d := .asyncTx) (by simp [prefilled])
      (by simpa [DriverIn, TransmitterOn, prefilled] using hrx)
  · exact driverInv_of_fatal hf
  · obtain ⟨hbody, hrun⟩ := updateBody_running Config.guardTime hs hlive hen
    exact driverInv_updateHandler hbody hrun
  · have hrx := receiverOff_of_transmits hd (driverIn_of_driverInv hs hlive rfl)
    exact driverInv_of_driverIn (d := .idle) rfl ⟨hrx, ⟨rfl, rfl, rfl⟩, .inl rfl⟩
  · exact driverInv_of_driverIn (d := .idle) rfl ⟨⟨rfl, rfl, rfl⟩, ⟨rfl, rfl, rfl⟩, .inr rfl⟩

theorem driverInv_badOp {s : State} (hs : DriverInv s) : DriverInv (raiseBadOp s) := by
  rcases raiseBadOp_cases s with hsame | ⟨-, e⟩
  · exact driverInv_same hsame hs
  · exact driverInv_of_fatal (by simp [e])

/-- Settles O47: a step is a stimulus or an undefined `op`, and R155 does not read the stimuli still to come. -/
theorem stepKeepsDriverInvariant : Obligations.StepKeepsDriverInvariant :=
  step_keeps (fun _ _ => driverInv_same (by constructor <;> rfl)) (fun _ => driverInv_badOp) fun _ _ _ => driverInv_exec

/-! ### The transitions -/

/-- Settles O52: of the stimuli that write `DSTATE`, the two starts come from `Idle`, the two stops go there, and the
update handler makes T4 or T5. -/
theorem transitionsAreExactlyThoseNamed : Obligations.TransitionsAreExactlyThoseNamed := by
  intro i s t hs h hreset hne
  rcases exec_cases h with hsame | ⟨-, c, -, rfl⟩ | ⟨hlive, hd, ctx, hi, rfl⟩ | ⟨hlive, hd, hi, rfl⟩ |
    ⟨hlive, hd, hreg, ctx, hi, ht⟩ | ⟨hlive, hen, hi, ⟨-, rfl⟩ | ⟨-, rfl⟩⟩ | ⟨hlive, hd, hi, rfl⟩ | ⟨hi, -⟩
  · exact absurd hsame.d hne
  · simp at hne
  · exact ⟨hlive, .inl ⟨hd, rfl, ctx, hi⟩⟩
  · exact ⟨hlive, .inr (.inl ⟨hd, rfl, hi⟩)⟩
  · have hdstate : t.dstate = .asyncTx := by
      rcases ht with ⟨-, rfl⟩ | ⟨-, rfl⟩ <;> simp [prefilled]
    exact ⟨hlive, .inr (.inr (.inl ⟨hd, hdstate, hreg, ctx, hi⟩))⟩
  · exact absurd (updateBody_frame Config.guardTime s).1 hne
  · obtain ⟨hdstate, -⟩ := updateBody_frame Config.guardTime s
    obtain ⟨hbody, hrun⟩ := updateBody_running Config.guardTime hs hlive hen
    rcases updateHandler_cases_of_running hbody hrun with e | ⟨harr, hd, e⟩ | ⟨harr, hd, e⟩ <;> rw [e] at hne ⊢
    · exact absurd hdstate hne
    · exact ⟨hlive, .inr (.inr (.inr (.inl ⟨hdstate ▸ hd, rfl, harr, hi⟩)))⟩
    · exact ⟨hlive, .inr (.inr (.inr (.inr (.inl ⟨hdstate ▸ hd, rfl, harr, hi⟩))))⟩
  · exact ⟨hlive, .inr (.inr (.inr (.inr (.inr ⟨hd, rfl, hi⟩))))⟩
  · exact absurd hi hreset

end Sys2Proof.Proofs.DriverStates

/-! ## Stimuli that are ignored or refused (spec/60_exceptions.md R168, R171) -/

namespace Sys2Proof.Proofs.Exceptions

open Sys2Proof.Machine
open Sys2Proof.Laws.State
open Sys2Proof.Laws.Transmit
open Sys2Proof.Proofs.Step

/-! ### While FATAL = 1 -/

/-- Every meaning but that of `RESET` tests `FATAL` first: an event together with its guard, the rest alone (R171). -/
theorem exec_of_fatal {i : Instr} {s : State} (h : s.fatal = true) (hi : i ≠ .reset) : exec i s = .next s.silent := by
  cases i with
  | reset => exact absurd rfl hi
  | rxTick | rxFall | rxRise | txUpdate => exact congrArg _ (whenEnabled_ignored _ (.inl h))
  | startAsyncRx | stopAsyncRx | startAsyncTx | stopAsyncTx | isAsyncTxComplete | setFrequency | isTxAllowed |
    srcPush => exact congrArg _ (whenLive_dead _ h)

/-- The second cause never replaces the first (R171). -/
theorem raiseBadOp_dead {s : State} (h : s.fatal = true) : raiseBadOp s = s.silent :=
  whenLive_dead _ h

/-- Settles O13: the 12 meanings and the undefined `op` word are ignored alike. -/
theorem fatalIgnoresAllButReset : Obligations.FatalIgnoresAllButReset :=
  ⟨fun _ _ hfatal hi => exec_of_fatal hfatal hi,
    fun _ _ _ _ hfatal hs hw => (step_of_undefinedOp hs hw).trans (congrArg _ (raiseBadOp_dead hfatal))⟩

/-! ### A refused start -/

/-- Settles O26: of the five outcomes of the command only the refusal is left in `Idle` with `REG = OnlyRx`. -/
theorem startTxIsRefused : Obligations.StartTxIsRefused := by
  intro ctx s hlive hd hreg
  rcases startAsyncTx_cases Config.guardTime s ctx with
    ⟨hfatal, -⟩ | ⟨-, hbusy, -⟩ | ⟨-, -, -, hrefused⟩ | ⟨-, -, htxRx, -⟩ | ⟨-, -, htxRx, -⟩
  · simp [hlive] at hfatal
  · exact absurd hd hbusy
  · exact congrArg Host.Outcome.next hrefused
  all_goals simp [hreg] at htxRx

end Sys2Proof.Proofs.Exceptions
